-- ==== Sys2Proof/Word.lean ====
section
/-! DEFINITION. The word types of the RISC-R CORE (00_scope.md R11, R12; 10_state.md R20). -/

namespace Sys2Proof

/-- A byte: 8 bits (00_scope.md R11). -/
abbrev Byte := BitVec 8

/-- A fetched 16-bit word: the first word of an instruction or its extension (20_memory.md R43). -/
abbrev Half := BitVec 16

/-- A 32-bit word, read as unsigned (00_scope.md R12; 10_state.md R20). -/
abbrev Word := BitVec 32

/-- The index of a general register, 0 to 15 (10_state.md R20; 30_encoding.md R71). -/
abbrev RegIdx := Fin 16

end Sys2Proof
end

