-- ==== Sys2Proof/Syntax.lean ====
section
/-! DEFINITION. The 21 instructions of the opcode map (30_encoding.md R73), one constructor per row.

`a` is reg1 and `b` is reg2 (30_encoding.md R71). `ext` is the signed integer value of the extension word (R64).
`r` is the retro-extension bit, which every instruction carries for the length tracker (R68). The e-bit is fixed by the
constructor (R66); the bits R75 calls ignored are not kept (log entry 5). -/

namespace Sys2Proof

/-- An instruction of the RISC-R CORE (30_encoding.md R72, R73). -/
inductive Instr where
  /-- NOP, opcode 0x00, format N. -/
  | nop (r : Bool)
  /-- ADD xA, xB, opcode 0x01, format RR. -/
  | add (a b : RegIdx) (r : Bool)
  /-- SUB xA, xB, opcode 0x02, format RR. -/
  | sub (a b : RegIdx) (r : Bool)
  /-- XOR xA, xB, opcode 0x03, format RR. -/
  | xor (a b : RegIdx) (r : Bool)
  /-- ROL xA, xB, opcode 0x04, format RR. -/
  | rol (a b : RegIdx) (r : Bool)
  /-- ROR xA, xB, opcode 0x05, format RR. -/
  | ror (a b : RegIdx) (r : Bool)
  /-- SWP xA, xB, opcode 0x08, format RR. -/
  | swp (a b : RegIdx) (r : Bool)
  /-- HLT, opcode 0x0F, format N. -/
  | hlt (r : Bool)
  /-- ADDI xA, imm, opcode 0x21, format RI. -/
  | addi (a : RegIdx) (ext : Int) (r : Bool)
  /-- SUBI xA, imm, opcode 0x22, format RI. -/
  | subi (a : RegIdx) (ext : Int) (r : Bool)
  /-- XORI xA, imm, opcode 0x23, format RI. -/
  | xori (a : RegIdx) (ext : Int) (r : Bool)
  /-- ROLI xA, imm, opcode 0x24, format RI. -/
  | roli (a : RegIdx) (ext : Int) (r : Bool)
  /-- RORI xA, imm, opcode 0x25, format RI. -/
  | rori (a : RegIdx) (ext : Int) (r : Bool)
  /-- MSWP xA, ext(xB), opcode 0x29, format M. -/
  | mswp (a b : RegIdx) (ext : Int) (r : Bool)
  /-- JEQ xA, xB, ext, opcode 0x30, format B. -/
  | jeq (a b : RegIdx) (ext : Int) (r : Bool)
  /-- JNE xA, xB, ext, opcode 0x31, format B. -/
  | jne (a b : RegIdx) (ext : Int) (r : Bool)
  /-- JLT xA, xB, ext, opcode 0x32, format B. -/
  | jlt (a b : RegIdx) (ext : Int) (r : Bool)
  /-- JGT xA, xB, ext, opcode 0x33, format B. -/
  | jgt (a b : RegIdx) (ext : Int) (r : Bool)
  /-- JLE xA, xB, ext, opcode 0x34, format B. -/
  | jle (a b : RegIdx) (ext : Int) (r : Bool)
  /-- JGE xA, xB, ext, opcode 0x35, format B. -/
  | jge (a b : RegIdx) (ext : Int) (r : Bool)
  /-- JMP ext, opcode 0x36, format J. -/
  | jmp (ext : Int) (r : Bool)
  deriving DecidableEq, Repr

end Sys2Proof
end

