-- ==== Sys2Proof/WellFormed.lean ====
section
/-! DEFINITION. Which instructions have an encoding: those whose extension value fits the signed 16-bit extension word
(30_encoding.md R64). Register indices are in range by their type (30_encoding.md R71). -/

namespace Sys2Proof

/-- `ext` lies in `[-32768, 32767]`, the range of a signed 16-bit extension word (30_encoding.md R64; 00_scope.md R13). -/
def extInRange (ext : Int) : Bool := decide (-32768 ≤ ext) && decide (ext ≤ 32767)

/-- An instruction is well formed when its extension value, if its format has one (30_encoding.md R72), is in range. -/
def Instr.wellFormed : Instr → Bool
  | .nop _ => true
  | .add _ _ _ => true
  | .sub _ _ _ => true
  | .xor _ _ _ => true
  | .rol _ _ _ => true
  | .ror _ _ _ => true
  | .swp _ _ _ => true
  | .hlt _ => true
  | .addi _ ext _ => extInRange ext
  | .subi _ ext _ => extInRange ext
  | .xori _ ext _ => extInRange ext
  | .roli _ ext _ => extInRange ext
  | .rori _ ext _ => extInRange ext
  | .mswp _ _ ext _ => extInRange ext
  | .jeq _ _ ext _ => extInRange ext
  | .jne _ _ ext _ => extInRange ext
  | .jlt _ _ ext _ => extInRange ext
  | .jgt _ _ ext _ => extInRange ext
  | .jle _ _ ext _ => extInRange ext
  | .jge _ _ ext _ => extInRange ext
  | .jmp ext _ => extInRange ext

end Sys2Proof
end

