-- ==== Sys2Proof/Decode.lean ====
section
/-! DEFINITION. The decoder (30_encoding.md Part A) and, after it, the encoder for the same tables. -/

namespace Sys2Proof

/-- Why a byte string is no instruction. The step never meets the two `truncated` cases, because it fetches the bytes the
e-bit asks for (40_cycle.md R103). -/
inductive DecodeReject where
  /-- Fewer than the 2 bytes of a first word. Safe: nothing is decoded. -/
  | truncatedWord
  /-- The e-bit is set and the 2 extension bytes are not both there. Safe: nothing is decoded. -/
  | truncatedExtension
  /-- `opc` is one of the 43 unassigned values (30_encoding.md R74). Safe: the step then follows 40_cycle.md R105. -/
  | unassignedOpcode (opc : BitVec 6)
  deriving DecidableEq, Repr

/-- The 16-bit little-endian word of two bytes, the lower address first (20_memory.md R42, R43). -/
def halfOfBytes (lo hi : Byte) : Half := hi ++ lo

/-- `opc = w[5:0]` (30_encoding.md R63, R66). -/
def opcodeField (w : Half) : BitVec 6 := w.extractLsb' 0 6

/-- `e = w[5]` (30_encoding.md R63). -/
def extendedBit (w : Half) : Bool := w.getLsbD 5

/-- `r = w[6]` (30_encoding.md R63). -/
def retroBit (w : Half) : Bool := w.getLsbD 6

/-- `r1 = w[11:8]` (30_encoding.md R63). -/
def reg1Field (w : Half) : RegIdx := (w.extractLsb' 8 4).toFin

/-- `r2 = w[15:12]` (30_encoding.md R63). -/
def reg2Field (w : Half) : RegIdx := (w.extractLsb' 12 4).toFin

/-- `sext(v)`, the two's complement value of a 16-bit word (00_scope.md R13). -/
def sext (v : Half) : Int := if v.getLsbD 15 then (v.toNat : Int) - 65536 else (v.toNat : Int)

/-- The opcode map (30_encoding.md R73): `w` is the first word, `x` the extension word, which only the rows with `e = 1`
use (R64). -/
def decodeWords (w x : Half) : Except DecodeReject Instr :=
  let a := reg1Field w
  let b := reg2Field w
  let r := retroBit w
  let ext := sext x
  match (opcodeField w).toNat with
  | 0x00 => .ok (.nop r)
  | 0x01 => .ok (.add a b r)
  | 0x02 => .ok (.sub a b r)
  | 0x03 => .ok (.xor a b r)
  | 0x04 => .ok (.rol a b r)
  | 0x05 => .ok (.ror a b r)
  | 0x08 => .ok (.swp a b r)
  | 0x0F => .ok (.hlt r)
  | 0x21 => .ok (.addi a ext r)
  | 0x22 => .ok (.subi a ext r)
  | 0x23 => .ok (.xori a ext r)
  | 0x24 => .ok (.roli a ext r)
  | 0x25 => .ok (.rori a ext r)
  | 0x29 => .ok (.mswp a b ext r)
  | 0x30 => .ok (.jeq a b ext r)
  | 0x31 => .ok (.jne a b ext r)
  | 0x32 => .ok (.jlt a b ext r)
  | 0x33 => .ok (.jgt a b ext r)
  | 0x34 => .ok (.jle a b ext r)
  | 0x35 => .ok (.jge a b ext r)
  | 0x36 => .ok (.jmp ext r)
  | _ => .error (.unassignedOpcode (opcodeField w))

/-- The instruction at the front of a byte string in address order: 2 bytes, or 4 when the e-bit is set (30_encoding.md R60,
R67). Bytes after the instruction are not looked at. -/
def decode : List Byte → Except DecodeReject Instr
  | b0 :: b1 :: rest =>
    let w := halfOfBytes b0 b1
    if extendedBit w then
      match rest with
      | b2 :: b3 :: _ => decodeWords w (halfOfBytes b2 b3)
      | _ => .error .truncatedExtension
    else decodeWords w 0
  | _ => .error .truncatedWord

/-- The four bytes of a number read as one little-endian value, the first byte least significant (30_encoding.md R62). -/
def bytesOfNat (w : Nat) : List Byte :=
  [BitVec.ofNat 8 w, BitVec.ofNat 8 (w / 256), BitVec.ofNat 8 (w / 65536), BitVec.ofNat 8 (w / 16777216)]

/-- The instruction the decoder reads from the low `nbits` bits of `w`, numbered as spec/opcode_table.json numbers them; every
bit above is 0. -/
def decodeTableWord (nbits w : Nat) : Option Instr :=
  match decode (bytesOfNat (w % 2 ^ nbits)) with
  | .ok i => some i
  | .error _ => none

/-! The encoder. Ignored bits are written as 0, as the assembler writes them (30_encoding.md R75). -/

/-- The opcode byte: bit 7 is 0, bit 6 the r-bit, bits 5..0 the opcode (30_encoding.md R65). -/
def opcodeByte (opc : BitVec 6) (r : Bool) : Byte := 0#1 ++ BitVec.ofBool r ++ opc

/-- The register byte `reg1 | (reg2 << 4)` (30_encoding.md R61). -/
def registerByte (a b : RegIdx) : Byte := (BitVec.ofFin b : BitVec 4) ++ (BitVec.ofFin a : BitVec 4)

/-- The extension word of a signed value: its 16-bit two's complement pattern (30_encoding.md R64; 00_scope.md R13). -/
def extensionWord (ext : Int) : Half := BitVec.ofInt 16 ext

/-- The two extension bytes, low byte first (30_encoding.md R62). -/
def extensionBytes (ext : Int) : List Byte :=
  [(extensionWord ext).extractLsb' 0 8, (extensionWord ext).extractLsb' 8 8]

/-- A 2-byte instruction (30_encoding.md R61). -/
def encodeShort (opc : BitVec 6) (a b : RegIdx) (r : Bool) : List Byte := [opcodeByte opc r, registerByte a b]

/-- A 4-byte instruction (30_encoding.md R62). -/
def encodeLong (opc : BitVec 6) (a b : RegIdx) (ext : Int) (r : Bool) : List Byte :=
  opcodeByte opc r :: registerByte a b :: extensionBytes ext

/-- The bytes of an instruction in address order (30_encoding.md R72, R73). -/
def encode : Instr → List Byte
  | .nop r => encodeShort 0x00 0 0 r
  | .add a b r => encodeShort 0x01 a b r
  | .sub a b r => encodeShort 0x02 a b r
  | .xor a b r => encodeShort 0x03 a b r
  | .rol a b r => encodeShort 0x04 a b r
  | .ror a b r => encodeShort 0x05 a b r
  | .swp a b r => encodeShort 0x08 a b r
  | .hlt r => encodeShort 0x0F 0 0 r
  | .addi a ext r => encodeLong 0x21 a 0 ext r
  | .subi a ext r => encodeLong 0x22 a 0 ext r
  | .xori a ext r => encodeLong 0x23 a 0 ext r
  | .roli a ext r => encodeLong 0x24 a 0 ext r
  | .rori a ext r => encodeLong 0x25 a 0 ext r
  | .mswp a b ext r => encodeLong 0x29 a b ext r
  | .jeq a b ext r => encodeLong 0x30 a b ext r
  | .jne a b ext r => encodeLong 0x31 a b ext r
  | .jlt a b ext r => encodeLong 0x32 a b ext r
  | .jgt a b ext r => encodeLong 0x33 a b ext r
  | .jle a b ext r => encodeLong 0x34 a b ext r
  | .jge a b ext r => encodeLong 0x35 a b ext r
  | .jmp ext r => encodeLong 0x36 0 0 ext r

end Sys2Proof
end

