-- ==== Sys2Proof/Config.lean ====
section
/-! DEFINITION. The implementation parameters: the fixed ones (00_scope.md R6) and the open ones of the hardware
(00_scope.md R7). The toolchain parameters REG_INDEX and ASM_NEG_IMM do not reach the hardware (R7). -/

namespace Sys2Proof.Config

/-- MEM_SIZE, 2^20 bytes (00_scope.md R6). -/
abbrev memSize : Nat := 1048576

/-- P_BRANCH_RESIDUAL (00_scope.md R7): whether a taken branch's displacement stays in the step-length cursor. -/
inductive BranchResidual where
  /-- The displacement stays in `sl` (40_cycle.md R107); the spec's default. -/
  | persist
  /-- The displacement moves `pc` only (40_cycle.md R108). -/
  | transient
  deriving DecidableEq, Repr

/-- P_ILLEGAL_OPCODE (00_scope.md R7): what an opcode outside the opcode map does (40_cycle.md R105). -/
inductive IllegalOpcode where
  /-- It raises ILLEGAL_OPCODE; the spec's default. -/
  | trap
  /-- It does nothing but the tracked advance. -/
  | nop
  /-- It halts, with the tracked advance. -/
  | halt
  deriving DecidableEq, Repr

/-- The open parameters of the hardware, "an argument" of the model (00_scope.md R7). -/
structure Params where
  branchResidual : BranchResidual
  illegalOpcode : IllegalOpcode
  deriving DecidableEq, Repr

/-- The spec's own defaults (00_scope.md R7). -/
def defaults : Params := { branchResidual := .persist, illegalOpcode := .trap }

end Sys2Proof.Config
end

