-- ==== Sys2Proof/Machine/State.lean ====
section
/-! DEFINITION. The state of the RISC-R CORE (10_state.md), the reasons a step can stop, and the state after reset. -/

namespace Sys2Proof.Machine

open Sys2Proof.Config

/-- The control state machine (10_state.md R26). -/
inductive RunState where
  | running
  | halted
  | trapped
  deriving DecidableEq, Repr

/-- The memory array (10_state.md R30) as its nonzero bytes, by rising address: a byte that is not listed reads 0, the
spec's "zero-initialized" (10_state.md R32). -/
abbrev Memory := List Host.Cell

/-- The canonical form from address `lo` on: addresses strictly rising and inside memory (20_memory.md R41), and no listed
byte is 0. -/
def Memory.wfFrom : Nat → Memory → Bool
  | _, [] => true
  | lo, (k, v) :: rest => decide (lo ≤ k) && decide (k < memSize) && decide (v ≠ 0) && Memory.wfFrom (k + 1) rest

/-- A memory is in canonical form, so that equal memories are equal lists. -/
def Memory.wf (m : Memory) : Bool := Memory.wfFrom 0 m

/-- Everything the spec gives the machine (10_state.md R20 to R30), and the model's own field `params` (log entry 1). -/
structure State where
  /-- The general registers `x[0]` .. `x[15]` (10_state.md R20). -/
  regs : Vector Word 16
  /-- The program counter, an integer (10_state.md R24). -/
  pc : Int
  /-- The step-length cursor, an integer (10_state.md R25). -/
  sl : Int
  /-- The control state (10_state.md R26). -/
  run : RunState
  /-- The 2-bit trap cause (10_state.md R27). -/
  tcause : BitVec 2
  /-- The trap information (10_state.md R27). -/
  tinfo : Word
  /-- The memory array (10_state.md R30). -/
  mem : Memory
  /-- The open parameters (00_scope.md R7): the model's own field, which nothing writes. -/
  params : Params
  deriving DecidableEq, Repr

/-- Why a step stops with a fault: never. Every fault the spec names is a trap, a next state with `run = Trapped`
(60_exceptions.md R200), and a stopped CORE's step changes nothing (40_cycle.md R113). Safe: see log entry 3. -/
inductive Fault where
  deriving DecidableEq, Repr

/-- What the model refuses. No step is refused; see the constructors. -/
inductive Refusal where
  /-- Raised by an arm of `exec` whose instruction has no meaning yet: by none. Safe. -/
  | notModelled (mnemonic : String)
  /-- Raised by `launch` alone, the host's `Load` of an image longer than MEM_SIZE, after which the CORE does not start
  (70_reset_and_hazards.md R221). Safe: the spec refuses it too. -/
  | imageTooLarge
  deriving DecidableEq, Repr

/-- The machine right after the launch sequence with the empty image (10_state.md R32; 70_reset_and_hazards.md R220, R221;
log entry 4). The parameters stand at the spec's defaults (00_scope.md R7). -/
def State.reset : State :=
  { regs := Vector.replicate 16 0
    pc := 0
    sl := 2
    run := .running
    tcause := 0
    tinfo := 0
    mem := []
    params := defaults }

end Sys2Proof.Machine
end

