-- ==== Sys2Proof/Machine/Ops.lean ====
section
/-! DEFINITION. The named operations over memory, registers and the execution cursor; taking a trap; the treatment of an
unassigned opcode. There is no return from a trap (60_exceptions.md R207): only `hostReset` (HostOps.lean) leaves it. -/

namespace Sys2Proof.Machine

open Sys2Proof.Config

/-! ### Memory -/

/-- The byte at an address; an unlisted byte is 0 (10_state.md R30, R32). -/
def Memory.readByte : Memory → Nat → Byte
  | [], _ => 0
  | (k, v) :: rest, a => if k = a then v else Memory.readByte rest a

/-- The memory with the entry at `a` removed, so that the byte there is 0. -/
def Memory.erase : Memory → Nat → Memory
  | [], _ => []
  | (k, v) :: rest, a => if k = a then Memory.erase rest a else (k, v) :: Memory.erase rest a

/-- The memory with an entry put at its place in the address order. -/
def Memory.insert : Memory → Nat → Byte → Memory
  | [], a, v => [(a, v)]
  | (k, w) :: rest, a, v => if a < k then (a, v) :: (k, w) :: rest else (k, w) :: Memory.insert rest a v

/-- The memory with byte `v` at address `a`, in canonical form. -/
def Memory.writeByte (m : Memory) (a : Nat) (v : Byte) : Memory :=
  if v = 0 then Memory.erase m a else Memory.insert (Memory.erase m a) a v

/-- `MemRead(a, n)`, the little-endian unsigned value of `n` bytes (00_scope.md R14). -/
def memRead (m : Memory) (a : Nat) : Nat → Nat
  | 0 => 0
  | n + 1 => (m.readByte a).toNat + 256 * memRead m (a + 1) n

/-- `MemWrite(a, n, v)`: byte `k` receives `(v >> 8k) mod 256` (00_scope.md R14). -/
def memWrite (m : Memory) (a : Nat) : Nat → Nat → Memory
  | 0, _ => m
  | n + 1, v => memWrite (m.writeByte a (BitVec.ofNat 8 v)) (a + 1) n (v / 256)

/-- The `n` bytes from address `a`, in address order. -/
def readBytes (m : Memory) (a : Nat) : Nat → List Byte
  | 0 => []
  | n + 1 => m.readByte a :: readBytes m (a + 1) n

/-- The memory with a byte string stored from address `a`. -/
def writeBytes (m : Memory) (a : Nat) : List Byte → Memory
  | [] => m
  | b :: rest => writeBytes (m.writeByte a b) (a + 1) rest

/-- An access of `n` bytes at `a` is in range (20_memory.md R46). -/
def inRange (a : Int) (n : Nat) : Bool := decide (0 ≤ a) && decide (a + n ≤ memSize)

/-! ### Registers -/

/-- `x[i]` (00_scope.md R15). Every register is alike, `x[0]` included (10_state.md R21). -/
def State.reg (s : State) (i : RegIdx) : Word := s.regs[i.val]'i.isLt

/-- `x[i] <- v` (00_scope.md R15; 10_state.md R21). -/
def State.setReg (s : State) (i : RegIdx) (v : Word) : State := { s with regs := s.regs.set i.val v i.isLt }

/-- The state with another memory. -/
def State.setMem (s : State) (m : Memory) : State := { s with mem := m }

/-! ### The execution cursor -/

/-- The length tracker: plus 2 for the e-bit (40_cycle.md R103), minus 2 for the r-bit (R104). -/
def trackLength (e r : Bool) (sl : Int) : Int := sl + (if e then 2 else 0) - (if r then 2 else 0)

/-- Phases 3, 6 and 7 for an instruction that takes no branch: `pc' = pc + sl'`, `sl'` kept (40_cycle.md R107, R108). -/
def advance (e r : Bool) (s : State) : State :=
  { s with pc := s.pc + trackLength e r s.sl, sl := trackLength e r s.sl }

/-- Phases 3, 6 and 7 for a taken branch, which is always 4 bytes long (40_cycle.md R107 under persist, R108 under
transient). -/
def takeBranch (ext : Int) (r : Bool) (s : State) : State :=
  match s.params.branchResidual with
  | .persist =>
    { s with pc := s.pc + (trackLength true r s.sl + ext), sl := trackLength true r s.sl + ext }
  | .transient =>
    { s with pc := s.pc + trackLength true r s.sl + ext, sl := trackLength true r s.sl }

/-- `halt`: `run <- Halted` (00_scope.md R15). -/
def halt (s : State) : State := { s with run := .halted }

/-! ### Traps -/

/-- The causes of a trap (60_exceptions.md R201). -/
inductive TrapCause where
  | fetchOutOfRange
  | illegalOpcode
  | dataOutOfRange
  deriving DecidableEq, Repr

/-- The spec's numbering of the causes (60_exceptions.md R201). -/
def trapCode : TrapCause → BitVec 2
  | .fetchOutOfRange => 1
  | .illegalOpcode => 2
  | .dataOutOfRange => 3

/-- Taking a trap, `raise <Cause>(info)`: only `run`, `tcause` and `tinfo = info mod 2^32` are written, everything else keeps
its value from before the step (60_exceptions.md R200, R206; 40_cycle.md R109). -/
def raise (c : TrapCause) (info : Int) (s : State) : State :=
  { s with run := .trapped, tcause := trapCode c, tinfo := BitVec.ofInt 32 info }

/-- What a step does with an unassigned opcode, by P_ILLEGAL_OPCODE; `w` is the first word (40_cycle.md R105). -/
def unassigned (w : Half) (s : State) : State :=
  match s.params.illegalOpcode with
  | .trap => raise .illegalOpcode w.toNat s
  | .nop => advance (extendedBit w) (retroBit w) s
  | .halt => halt (advance (extendedBit w) (retroBit w) s)

end Sys2Proof.Machine
end

