-- ==== Sys2Proof/Machine/Flags.lean ====
section
/-! DEFINITION. There are no status flags (10_state.md R28): a conditional branch compares two registers directly. These are
the six relations, on the unsigned 32-bit values (45_control_flow.md R180 to R186; 90_conflicts.md C2). -/

namespace Sys2Proof.Machine

/-- JEQ's relation (45_control_flow.md R181). -/
def condEq (x y : Word) : Bool := decide (x.toNat = y.toNat)

/-- JNE's relation (45_control_flow.md R182). -/
def condNe (x y : Word) : Bool := decide (x.toNat ≠ y.toNat)

/-- JLT's relation (45_control_flow.md R183). -/
def condLt (x y : Word) : Bool := decide (x.toNat < y.toNat)

/-- JGT's relation (45_control_flow.md R184). -/
def condGt (x y : Word) : Bool := decide (y.toNat < x.toNat)

/-- JLE's relation (45_control_flow.md R185). -/
def condLe (x y : Word) : Bool := decide (x.toNat ≤ y.toNat)

/-- JGE's relation (45_control_flow.md R186). -/
def condGe (x y : Word) : Bool := decide (y.toNat ≤ x.toNat)

end Sys2Proof.Machine
end

