-- ==== Sys2Proof/Machine/ControlFlow.lean ====
section
/-! DEFINITION. The meanings of JEQ, JNE, JLT, JGT, JLE, JGE and JMP (45_control_flow.md): they only set `taken`, and the
advance applies the displacement. A target is not checked here (45_control_flow.md R188). -/

namespace Sys2Proof.Machine

/-- The advance of a branch instruction (40_cycle.md R107, R108). -/
def branchIf (taken : Bool) (ext : Int) (r : Bool) (s : State) : Host.Outcome State Fault Refusal :=
  .next (if taken then takeBranch ext r s else advance true r s)

/-- JEQ (45_control_flow.md R181). -/
def execJeq (a b : RegIdx) (ext : Int) (r : Bool) (s : State) : Host.Outcome State Fault Refusal :=
  branchIf (condEq (s.reg a) (s.reg b)) ext r s

/-- JNE (45_control_flow.md R182). -/
def execJne (a b : RegIdx) (ext : Int) (r : Bool) (s : State) : Host.Outcome State Fault Refusal :=
  branchIf (condNe (s.reg a) (s.reg b)) ext r s

/-- JLT (45_control_flow.md R183). -/
def execJlt (a b : RegIdx) (ext : Int) (r : Bool) (s : State) : Host.Outcome State Fault Refusal :=
  branchIf (condLt (s.reg a) (s.reg b)) ext r s

/-- JGT (45_control_flow.md R184). -/
def execJgt (a b : RegIdx) (ext : Int) (r : Bool) (s : State) : Host.Outcome State Fault Refusal :=
  branchIf (condGt (s.reg a) (s.reg b)) ext r s

/-- JLE (45_control_flow.md R185). -/
def execJle (a b : RegIdx) (ext : Int) (r : Bool) (s : State) : Host.Outcome State Fault Refusal :=
  branchIf (condLe (s.reg a) (s.reg b)) ext r s

/-- JGE (45_control_flow.md R186). -/
def execJge (a b : RegIdx) (ext : Int) (r : Bool) (s : State) : Host.Outcome State Fault Refusal :=
  branchIf (condGe (s.reg a) (s.reg b)) ext r s

/-- JMP (45_control_flow.md R187). -/
def execJmp (ext : Int) (r : Bool) (s : State) : Host.Outcome State Fault Refusal :=
  branchIf true ext r s

end Sys2Proof.Machine
end

