-- ==== Sys2Proof/Machine/Operands.lean ====
section
/-! DEFINITION. The operand forms of the formats (30_encoding.md R69 to R72) and the rotate functions (42_register_register.md
R128). -/

namespace Sys2Proof.Machine

/-- The ALU immediate of ADDI, SUBI and XORI: `imm32 = ext mod 2^32` (30_encoding.md R69). -/
def immediate (ext : Int) : Word := BitVec.ofInt 32 ext

/-- A rotate amount from a register, `x[b] mod 32` (30_encoding.md R70). -/
def rotateAmountReg (v : Word) : Nat := v.toNat % 32

/-- A rotate amount from an immediate, `ext mod 32` (30_encoding.md R69, R70). -/
def rotateAmountImm (ext : Int) : Nat := (ext % 32).toNat

/-- The effective address of MSWP, `x[b] + ext`, an integer that is not wrapped (44_memory_swap.md R171). -/
def effectiveAddress (b : RegIdx) (ext : Int) (s : State) : Int := (s.reg b).toNat + ext

/-- `rotl(v, n)` for `n` in `[0, 31]` (42_register_register.md R128). -/
def rotl (v : Word) (n : Nat) : Word := if n = 0 then v else (v <<< n) ||| (v >>> (32 - n))

/-- `rotr(v, n)` for `n` in `[0, 31]` (42_register_register.md R128). -/
def rotr (v : Word) (n : Nat) : Word := if n = 0 then v else (v >>> n) ||| (v <<< (32 - n))

end Sys2Proof.Machine
end

