-- ==== Sys2Proof/Machine/MemorySwap.lean ====
section
/-! DEFINITION. The meaning of MSWP (44_memory_swap.md). -/

namespace Sys2Proof.Machine

/-- `x[a]` and the 4 bytes at `ea` exchanged; both values are read before the step (44_memory_swap.md R170). -/
def swapWord (a : RegIdx) (ea : Nat) (s : State) : State :=
  (s.setMem (memWrite s.mem ea 4 (s.reg a).toNat)).setReg a (BitVec.ofNat 32 (memRead s.mem ea 4))

/-- MSWP: the exchange when the 4 bytes at the effective address are in memory, else DATA_OUT_OF_RANGE
(44_memory_swap.md R170, R171). -/
def execMswp (a b : RegIdx) (ext : Int) (r : Bool) (s : State) : Host.Outcome State Fault Refusal :=
  if inRange (effectiveAddress b ext s) 4 then
    .next (advance true r (swapWord a (effectiveAddress b ext s).toNat s))
  else .next (raise .dataOutOfRange (effectiveAddress b ext s) s)

end Sys2Proof.Machine
end

