-- ==== Sys2Proof/Machine/NoOperand.lean ====
section
/-! DEFINITION. The meanings of NOP and HLT (41_no_operand.md). -/

namespace Sys2Proof.Machine

/-- NOP: only the tracked advance (41_no_operand.md R120). -/
def execNop (r : Bool) (s : State) : Host.Outcome State Fault Refusal := .next (advance false r s)

/-- HLT: the tracked advance and `run <- Halted` (41_no_operand.md R121). -/
def execHlt (r : Bool) (s : State) : Host.Outcome State Fault Refusal := .next (halt (advance false r s))

end Sys2Proof.Machine
end

