-- ==== Sys2Proof/Machine/RegisterImmediate.lean ====
section
/-! DEFINITION. The meanings of ADDI, SUBI, XORI, ROLI and RORI (43_register_immediate.md). -/

namespace Sys2Proof.Machine

/-- A 4-byte instruction that writes `v` to `x[a]` and advances. -/
def writeLong (a : RegIdx) (v : Word) (r : Bool) (s : State) : Host.Outcome State Fault Refusal :=
  .next (advance true r (s.setReg a v))

/-- ADDI: `x[a] <- (x[a] + imm32) mod 2^32` (43_register_immediate.md R150). -/
def execAddi (a : RegIdx) (ext : Int) (r : Bool) (s : State) : Host.Outcome State Fault Refusal :=
  writeLong a (s.reg a + immediate ext) r s

/-- SUBI: `x[a] <- (x[a] - imm32) mod 2^32` (43_register_immediate.md R151). -/
def execSubi (a : RegIdx) (ext : Int) (r : Bool) (s : State) : Host.Outcome State Fault Refusal :=
  writeLong a (s.reg a - immediate ext) r s

/-- XORI: `x[a] <- x[a] ^ imm32` (43_register_immediate.md R152). -/
def execXori (a : RegIdx) (ext : Int) (r : Bool) (s : State) : Host.Outcome State Fault Refusal :=
  writeLong a (s.reg a ^^^ immediate ext) r s

/-- ROLI: `x[a] <- rotl(x[a], ext mod 32)` (43_register_immediate.md R153). -/
def execRoli (a : RegIdx) (ext : Int) (r : Bool) (s : State) : Host.Outcome State Fault Refusal :=
  writeLong a (rotl (s.reg a) (rotateAmountImm ext)) r s

/-- RORI: `x[a] <- rotr(x[a], ext mod 32)` (43_register_immediate.md R154). -/
def execRori (a : RegIdx) (ext : Int) (r : Bool) (s : State) : Host.Outcome State Fault Refusal :=
  writeLong a (rotr (s.reg a) (rotateAmountImm ext)) r s

end Sys2Proof.Machine
end

