-- ==== Sys2Proof/Machine/RegisterRegister.lean ====
section
/-! DEFINITION. The meanings of ADD, SUB, XOR, ROL, ROR and SWP (42_register_register.md). -/

namespace Sys2Proof.Machine

/-- A 2-byte instruction that writes `v` to `x[a]` and advances. -/
def writeShort (a : RegIdx) (v : Word) (r : Bool) (s : State) : Host.Outcome State Fault Refusal :=
  .next (advance false r (s.setReg a v))

/-- ADD: `x[a] <- (x[a] + x[b]) mod 2^32` (42_register_register.md R130). -/
def execAdd (a b : RegIdx) (r : Bool) (s : State) : Host.Outcome State Fault Refusal :=
  writeShort a (s.reg a + s.reg b) r s

/-- SUB: `x[a] <- (x[a] - x[b]) mod 2^32` (42_register_register.md R131). -/
def execSub (a b : RegIdx) (r : Bool) (s : State) : Host.Outcome State Fault Refusal :=
  writeShort a (s.reg a - s.reg b) r s

/-- XOR: `x[a] <- x[a] ^ x[b]` (42_register_register.md R132). -/
def execXor (a b : RegIdx) (r : Bool) (s : State) : Host.Outcome State Fault Refusal :=
  writeShort a (s.reg a ^^^ s.reg b) r s

/-- ROL: `x[a] <- rotl(x[a], x[b] mod 32)` (42_register_register.md R133). -/
def execRol (a b : RegIdx) (r : Bool) (s : State) : Host.Outcome State Fault Refusal :=
  writeShort a (rotl (s.reg a) (rotateAmountReg (s.reg b))) r s

/-- ROR: `x[a] <- rotr(x[a], x[b] mod 32)` (42_register_register.md R134). -/
def execRor (a b : RegIdx) (r : Bool) (s : State) : Host.Outcome State Fault Refusal :=
  writeShort a (rotr (s.reg a) (rotateAmountReg (s.reg b))) r s

/-- SWP: exchange `x[a]` and `x[b]`, both read before the step (42_register_register.md R135). -/
def execSwp (a b : RegIdx) (r : Bool) (s : State) : Host.Outcome State Fault Refusal :=
  .next (advance false r ((s.setReg a (s.reg b)).setReg b (s.reg a)))

end Sys2Proof.Machine
end

