-- ==== Sys2Proof/Machine/Dispatch.lean ====
section
/-! DEFINITION. The dispatch on the instruction (40_cycle.md R106), one arm per constructor. -/

namespace Sys2Proof.Machine

def exec (i : Instr) (s : State) : Host.Outcome State Fault Refusal :=
  match i with
  | .nop r => Sys2Proof.Machine.execNop r s
  | .add a b r => Sys2Proof.Machine.execAdd a b r s
  | .sub a b r => Sys2Proof.Machine.execSub a b r s
  | .xor a b r => Sys2Proof.Machine.execXor a b r s
  | .rol a b r => Sys2Proof.Machine.execRol a b r s
  | .ror a b r => Sys2Proof.Machine.execRor a b r s
  | .swp a b r => Sys2Proof.Machine.execSwp a b r s
  | .hlt r => Sys2Proof.Machine.execHlt r s
  | .addi a ext r => Sys2Proof.Machine.execAddi a ext r s
  | .subi a ext r => Sys2Proof.Machine.execSubi a ext r s
  | .xori a ext r => Sys2Proof.Machine.execXori a ext r s
  | .roli a ext r => Sys2Proof.Machine.execRoli a ext r s
  | .rori a ext r => Sys2Proof.Machine.execRori a ext r s
  | .mswp a b ext r => Sys2Proof.Machine.execMswp a b ext r s
  | .jeq a b ext r => Sys2Proof.Machine.execJeq a b ext r s
  | .jne a b ext r => Sys2Proof.Machine.execJne a b ext r s
  | .jlt a b ext r => Sys2Proof.Machine.execJlt a b ext r s
  | .jgt a b ext r => Sys2Proof.Machine.execJgt a b ext r s
  | .jle a b ext r => Sys2Proof.Machine.execJle a b ext r s
  | .jge a b ext r => Sys2Proof.Machine.execJge a b ext r s
  | .jmp ext r => Sys2Proof.Machine.execJmp ext r s

end Sys2Proof.Machine
end

