-- ==== Sys2Proof/Machine/Fetch.lean ====
section
/-! DEFINITION. The fetch phases of the step: the first word, then the extension word when the e-bit asks for it
(40_cycle.md R101, R103). -/

namespace Sys2Proof.Machine

/-- The first word in memory at an address (20_memory.md R43). -/
def firstWord (m : Memory) (a : Nat) : Half := halfOfBytes (m.readByte a) (m.readByte (a + 1))

/-- The bytes of the instruction at `pc`, 2 or 4 of them by the e-bit (30_encoding.md R67), or the start address of the
2-byte access that is out of range (40_cycle.md R101, R103, R110). -/
def fetch (s : State) : Except Int (List Byte) :=
  if inRange s.pc 2 then
    if extendedBit (firstWord s.mem s.pc.toNat) then
      if inRange (s.pc + 2) 2 then .ok (readBytes s.mem s.pc.toNat 4) else .error (s.pc + 2)
    else .ok (readBytes s.mem s.pc.toNat 2)
  else .error s.pc

/-- The memory with an instruction's four bytes stored for the fetch at `pc`; at the top of memory only its first word fits,
and where no fetch is possible nothing is stored (log entry 8). -/
def placeAt (m : Memory) (pc : Int) (w : Nat) : Memory :=
  if inRange pc 4 then writeBytes m pc.toNat (bytesOfNat w)
  else if inRange pc 2 then writeBytes m pc.toNat ((bytesOfNat w).take 2)
  else m

end Sys2Proof.Machine
end

