-- ==== Sys2Proof/Machine/Step.lean ====
section
/-! DEFINITION. One `Step` (40_cycle.md R100): fetch, decode, legality, then the instruction's meaning, which holds the length
tracker, the advance and the commit. -/

namespace Sys2Proof.Machine

/-- `Step` (40_cycle.md R100). A stopped CORE does nothing (R113). -/
def step (s : State) : Host.Outcome State Fault Refusal :=
  match s.run with
  | .halted => .next s
  | .trapped => .next s
  | .running =>
    match fetch s with
    | .error a => .next (raise .fetchOutOfRange a s)
    | .ok bytes =>
      match decode bytes with
      | .ok i => exec i s
      | .error _ => .next (unassigned (firstWord s.mem s.pc.toNat) s)

/-- The state with the instruction of `nbits` bits `w` stored where `step` fetches next (log entry 8). -/
def State.withFetchWord (s : State) (nbits w : Nat) : State := s.setMem (placeAt s.mem s.pc (w % 2 ^ nbits))

end Sys2Proof.Machine
end

