-- ==== Sys2Proof/Machine/HostOps.lean ====
section
/-! DEFINITION. The host's operations beside `Step`: `Load`, `Reset`, `Observe` and the launch sequence (00_scope.md R9;
70_reset_and_hazards.md R220, R221, R225). -/

namespace Sys2Proof.Machine

open Sys2Proof.Config

/-- `Reset`: every register to its reset value, memory kept (70_reset_and_hazards.md R220); the parameters are no state and
stay. -/
def hostReset (s : State) : State :=
  { regs := Vector.replicate 16 0
    pc := 0
    sl := 2
    run := .running
    tcause := 0
    tinfo := 0
    mem := s.mem
    params := s.params }

/-- `Load(image)` into zeroed memory: byte `a` of the image at address `a` (70_reset_and_hazards.md R221). -/
def loadImage (image : List Byte) : Memory := writeBytes [] 0 image

/-- The launch sequence of R221 up to the first `Step`: zeroed memory, `Load`, `Reset`. An image longer than MEM_SIZE is
refused. `Load` has no other use in the model (log entry 7). -/
def launch (p : Params) (image : List Byte) : Host.Outcome State Fault Refusal :=
  if image.length ≤ memSize then
    .next (hostReset { State.reset with mem := loadImage image, params := p })
  else .refused .imageTooLarge

/-- What `Observe` exposes (00_scope.md R9; 70_reset_and_hazards.md R225). -/
structure Observation where
  run : RunState
  tcause : BitVec 2
  tinfo : Word
  regs : Vector Word 16
  pc : Int
  sl : Int
  mem : Memory
  deriving DecidableEq, Repr

/-- `Observe`: everything but the parameters, and no state changes (00_scope.md R9). -/
def observe (s : State) : Observation :=
  { run := s.run, tcause := s.tcause, tinfo := s.tinfo, regs := s.regs, pc := s.pc, sl := s.sl, mem := s.mem }

end Sys2Proof.Machine
end

