-- ==== Sys2Proof/Safety.lean ====
section
/-! DEFINITION. The terms claims use: the end of a run, the invariants of the machine, frames, and the facts about an
instruction that the spec tabulates (its length, r-bit, registers, opcode and displacement). -/

namespace Sys2Proof

open Sys2Proof.Config Sys2Proof.Machine

/-! ### Facts about an instruction -/

/-- Whether the instruction is 4 bytes long (30_encoding.md R67, R72). -/
def isLong : Instr → Bool
  | .nop _ => false
  | .add _ _ _ => false
  | .sub _ _ _ => false
  | .xor _ _ _ => false
  | .rol _ _ _ => false
  | .ror _ _ _ => false
  | .swp _ _ _ => false
  | .hlt _ => false
  | .addi _ _ _ => true
  | .subi _ _ _ => true
  | .xori _ _ _ => true
  | .roli _ _ _ => true
  | .rori _ _ _ => true
  | .mswp _ _ _ _ => true
  | .jeq _ _ _ _ => true
  | .jne _ _ _ _ => true
  | .jlt _ _ _ _ => true
  | .jgt _ _ _ _ => true
  | .jle _ _ _ _ => true
  | .jge _ _ _ _ => true
  | .jmp _ _ => true

/-- `len(I)`, 2 or 4 bytes (30_encoding.md R60, R67). -/
def lengthOf (i : Instr) : Nat := if isLong i then 4 else 2

/-- The r-bit of an instruction (30_encoding.md R68). -/
def retroOf : Instr → Bool
  | .nop r => r
  | .add _ _ r => r
  | .sub _ _ r => r
  | .xor _ _ r => r
  | .rol _ _ r => r
  | .ror _ _ r => r
  | .swp _ _ r => r
  | .hlt r => r
  | .addi _ _ r => r
  | .subi _ _ r => r
  | .xori _ _ r => r
  | .roli _ _ r => r
  | .rori _ _ r => r
  | .mswp _ _ _ r => r
  | .jeq _ _ _ r => r
  | .jne _ _ _ r => r
  | .jlt _ _ _ r => r
  | .jgt _ _ _ r => r
  | .jle _ _ _ r => r
  | .jge _ _ _ r => r
  | .jmp _ r => r

/-- The same instruction with the r-bit clear. -/
def clearRetro : Instr → Instr
  | .nop _ => .nop false
  | .add a b _ => .add a b false
  | .sub a b _ => .sub a b false
  | .xor a b _ => .xor a b false
  | .rol a b _ => .rol a b false
  | .ror a b _ => .ror a b false
  | .swp a b _ => .swp a b false
  | .hlt _ => .hlt false
  | .addi a x _ => .addi a x false
  | .subi a x _ => .subi a x false
  | .xori a x _ => .xori a x false
  | .roli a x _ => .roli a x false
  | .rori a x _ => .rori a x false
  | .mswp a b x _ => .mswp a b x false
  | .jeq a b x _ => .jeq a b x false
  | .jne a b x _ => .jne a b x false
  | .jlt a b x _ => .jlt a b x false
  | .jgt a b x _ => .jgt a b x false
  | .jle a b x _ => .jle a b x false
  | .jge a b x _ => .jge a b x false
  | .jmp x _ => .jmp x false

/-- The 6-bit opcode of the instruction's row in the opcode map (30_encoding.md R73). -/
def opcodeOf : Instr → Nat
  | .nop _ => 0x00
  | .add _ _ _ => 0x01
  | .sub _ _ _ => 0x02
  | .xor _ _ _ => 0x03
  | .rol _ _ _ => 0x04
  | .ror _ _ _ => 0x05
  | .swp _ _ _ => 0x08
  | .hlt _ => 0x0F
  | .addi _ _ _ => 0x21
  | .subi _ _ _ => 0x22
  | .xori _ _ _ => 0x23
  | .roli _ _ _ => 0x24
  | .rori _ _ _ => 0x25
  | .mswp _ _ _ _ => 0x29
  | .jeq _ _ _ _ => 0x30
  | .jne _ _ _ _ => 0x31
  | .jlt _ _ _ _ => 0x32
  | .jgt _ _ _ _ => 0x33
  | .jle _ _ _ _ => 0x34
  | .jge _ _ _ _ => 0x35
  | .jmp _ _ => 0x36

/-- The 21 values of the opcode map (30_encoding.md R73; 40_cycle.md R105). -/
def opcodeMap : List Nat :=
  [0x00, 0x01, 0x02, 0x03, 0x04, 0x05, 0x08, 0x0F, 0x21, 0x22, 0x23, 0x24, 0x25, 0x29, 0x30, 0x31, 0x32, 0x33, 0x34,
    0x35, 0x36]

/-- The 43 unassigned values, as 30_encoding.md R74 lists them. -/
def unassignedOpcodes : List Nat :=
  [0x06, 0x07, 0x09, 0x0A, 0x0B, 0x0C, 0x0D, 0x0E, 0x10, 0x11, 0x12, 0x13, 0x14, 0x15, 0x16, 0x17, 0x18, 0x19, 0x1A,
    0x1B, 0x1C, 0x1D, 0x1E, 0x1F, 0x20, 0x26, 0x27, 0x28, 0x2A, 0x2B, 0x2C, 0x2D, 0x2E, 0x2F, 0x37, 0x38, 0x39, 0x3A,
    0x3B, 0x3C, 0x3D, 0x3E, 0x3F]

/-- The "writes" column of the register table (10_state.md R22). -/
def writtenRegs : Instr → List RegIdx
  | .nop _ => []
  | .add a _ _ => [a]
  | .sub a _ _ => [a]
  | .xor a _ _ => [a]
  | .rol a _ _ => [a]
  | .ror a _ _ => [a]
  | .swp a b _ => [a, b]
  | .hlt _ => []
  | .addi a _ _ => [a]
  | .subi a _ _ => [a]
  | .xori a _ _ => [a]
  | .roli a _ _ => [a]
  | .rori a _ _ => [a]
  | .mswp a _ _ _ => [a]
  | .jeq _ _ _ _ => []
  | .jne _ _ _ _ => []
  | .jlt _ _ _ _ => []
  | .jgt _ _ _ _ => []
  | .jle _ _ _ _ => []
  | .jge _ _ _ _ => []
  | .jmp _ _ => []

/-- The "reads" column of the register table (10_state.md R22). -/
def readRegs : Instr → List RegIdx
  | .nop _ => []
  | .add a b _ => [a, b]
  | .sub a b _ => [a, b]
  | .xor a b _ => [a, b]
  | .rol a b _ => [a, b]
  | .ror a b _ => [a, b]
  | .swp a b _ => [a, b]
  | .hlt _ => []
  | .addi a _ _ => [a]
  | .subi a _ _ => [a]
  | .xori a _ _ => [a]
  | .roli a _ _ => [a]
  | .rori a _ _ => [a]
  | .mswp a b _ _ => [a, b]
  | .jeq a b _ _ => [a, b]
  | .jne a b _ _ => [a, b]
  | .jlt a b _ _ => [a, b]
  | .jgt a b _ _ => [a, b]
  | .jle a b _ _ => [a, b]
  | .jge a b _ _ => [a, b]
  | .jmp _ _ => []

/-- The displacement of the branch the instruction takes in state `s`, and none when it takes none (40_cycle.md
R106, R107). Whether it is taken is the spec's own relation on unsigned values (45_control_flow.md R181 to R187). -/
def takenDisplacement (s : State) : Instr → Option Int
  | .nop _ => none
  | .add _ _ _ => none
  | .sub _ _ _ => none
  | .xor _ _ _ => none
  | .rol _ _ _ => none
  | .ror _ _ _ => none
  | .swp _ _ _ => none
  | .hlt _ => none
  | .addi _ _ _ => none
  | .subi _ _ _ => none
  | .xori _ _ _ => none
  | .roli _ _ _ => none
  | .rori _ _ _ => none
  | .mswp _ _ _ _ => none
  | .jeq a b x _ => if (s.reg a).toNat = (s.reg b).toNat then some x else none
  | .jne a b x _ => if (s.reg a).toNat ≠ (s.reg b).toNat then some x else none
  | .jlt a b x _ => if (s.reg a).toNat < (s.reg b).toNat then some x else none
  | .jgt a b x _ => if (s.reg a).toNat > (s.reg b).toNat then some x else none
  | .jle a b x _ => if (s.reg a).toNat ≤ (s.reg b).toNat then some x else none
  | .jge a b x _ => if (s.reg a).toNat ≥ (s.reg b).toNat then some x else none
  | .jmp x _ => some x

/-- The first two bytes of an instruction, written from the format tables with plain numbers: `opc` plus 0x40 for the
r-bit, then `reg1 | (reg2 << 4)` (30_encoding.md R61, R65). -/
def specBytes (opc : Nat) (r : Bool) (a b : RegIdx) : List Byte :=
  [BitVec.ofNat 8 (opc + (if r then 64 else 0)), BitVec.ofNat 8 (a.val + 16 * b.val)]

/-! ### Frames -/

/-- Every general register but those listed keeps its value. -/
def KeepsRegsExcept (ws : List RegIdx) (s t : State) : Prop := ∀ c : RegIdx, c ∉ ws → t.reg c = s.reg c

/-- Every byte of memory keeps its value. -/
def KeepsMemory (s t : State) : Prop := ∀ x : Nat, t.mem.readByte x = s.mem.readByte x

/-- Every byte of memory outside the `n` bytes from `a` keeps its value. -/
def KeepsMemoryOutside (a n : Nat) (s t : State) : Prop :=
  ∀ x : Nat, ¬ (a ≤ x ∧ x < a + n) → t.mem.readByte x = s.mem.readByte x

/-- The trap-report registers and the parameters keep their values. -/
def KeepsReport (s t : State) : Prop := t.tcause = s.tcause ∧ t.tinfo = s.tinfo ∧ t.params = s.params

/-- The cursor after an instruction that takes no branch: plus 2 for the e-bit, minus 2 for the r-bit, and `pc` moves by the
new step length (40_cycle.md R103, R104, R107, R108). -/
def Advanced (e r : Bool) (s t : State) : Prop :=
  t.sl = s.sl + (if e then 2 else 0) - (if r then 2 else 0) ∧ t.pc = s.pc + t.sl

/-- The cursor after a taken branch with displacement `ext` (40_cycle.md R107 under persist, R108 under transient). -/
def Branched (ext : Int) (r : Bool) (s t : State) : Prop :=
  match s.params.branchResidual with
  | .persist => t.sl = s.sl + 2 - (if r then 2 else 0) + ext ∧ t.pc = s.pc + t.sl
  | .transient => t.sl = s.sl + 2 - (if r then 2 else 0) ∧ t.pc = s.pc + t.sl + ext

/-- `t` is `s` with a trap taken: `run`, `tcause` and `tinfo` are written and nothing else changes (60_exceptions.md R200). -/
def TrapTaken (code : BitVec 2) (info : Int) (s t : State) : Prop :=
  t.run = .trapped ∧ t.tcause = code ∧ (t.tinfo.toNat : Int) = info % 4294967296 ∧
    t.regs = s.regs ∧ t.pc = s.pc ∧ t.sl = s.sl ∧ t.mem = s.mem ∧ t.params = s.params

/-! ### Runs and invariants -/

/-- A run ends when `run` becomes Halted (normal end) or Trapped (fault end) (70_reset_and_hazards.md R225). -/
def RunEnded (s : State) : Prop := s.run = .halted ∨ s.run = .trapped

/-- The trap-report registers are the reset values until a trap is taken, and name a cause after it (60_exceptions.md R200,
R201). -/
def TrapReportConsistent (s : State) : Prop :=
  (s.run = .trapped → s.tcause ≠ 0) ∧ (s.run ≠ .trapped → s.tcause = 0 ∧ s.tinfo = 0)

/-- The bound on the cursor: 10_state.md R25's figures under persist, and the model's own wider ones under transient (log
entry 9). The first line of each case ties `pc` to `sl`, which makes the bound inductive. -/
def CursorBounded (s : State) : Prop :=
  match s.params.branchResidual with
  | .persist =>
    -2 ≤ s.pc - s.sl ∧ s.pc - s.sl ≤ memSize - 2 ∧
      -(memSize + 32770 : Int) ≤ s.sl ∧ s.sl ≤ memSize + 32770 ∧
      -(memSize + 32770 : Int) ≤ s.pc ∧ s.pc ≤ 2 * memSize + 32770
  | .transient =>
    -32770 ≤ s.pc - s.sl ∧ s.pc - s.sl ≤ memSize + 32765 ∧
      -(memSize + 32770 : Int) ≤ s.sl ∧ s.sl ≤ memSize + 32770 ∧
      -(memSize + 65540 : Int) ≤ s.pc ∧ s.pc ≤ 2 * memSize + 65540

end Sys2Proof
end

