-- ==== Sys2Proof/Certificates/Slice0/Obligations.lean ====
section
/-! DEFINITION. The statements for the provers. Each docstring names the rules of spec/ it rests on. -/

open Sys2Proof Sys2Proof.Config Sys2Proof.Machine

/-- NOP (41_no_operand.md R120). -/
def Obligations.NopOnlyAdvances : Prop :=
  ∀ r : Bool,
    (∀ (z b1 : Byte), z = 0 ∨ z = 0x80 →
      decode [BitVec.ofNat 8 (0x00 + (if r then 64 else 0)) ||| z, b1] = .ok (.nop r)) ∧
    ∀ s : State, ∃ t : State, exec (.nop r) s = .next t ∧
      KeepsRegsExcept [] s t ∧ KeepsMemory s t ∧ KeepsReport s t ∧ t.run = s.run ∧ Advanced false r s t

/-- HLT (41_no_operand.md R121; that it advances is decision D17 of the spec). -/
def Obligations.HltHaltsAndAdvances : Prop :=
  ∀ r : Bool,
    (∀ (z b1 : Byte), z = 0 ∨ z = 0x80 →
      decode [BitVec.ofNat 8 (0x0F + (if r then 64 else 0)) ||| z, b1] = .ok (.hlt r)) ∧
    ∀ s : State, ∃ t : State, exec (.hlt r) s = .next t ∧
      KeepsRegsExcept [] s t ∧ KeepsMemory s t ∧ KeepsReport s t ∧ t.run = .halted ∧ Advanced false r s t ∧
      step t = .next t

/-- ADD (42_register_register.md R130). -/
def Obligations.AddWritesSum : Prop :=
  ∀ (a b : RegIdx) (r : Bool),
    decode (specBytes 0x01 r a b) = .ok (.add a b r) ∧
    ∀ s : State, ∃ t : State, exec (.add a b r) s = .next t ∧
      (t.reg a).toNat = ((s.reg a).toNat + (s.reg b).toNat) % 4294967296 ∧
      KeepsRegsExcept [a] s t ∧ KeepsMemory s t ∧ KeepsReport s t ∧ t.run = s.run ∧ Advanced false r s t

/-- SUB (42_register_register.md R131). -/
def Obligations.SubWritesDifference : Prop :=
  ∀ (a b : RegIdx) (r : Bool),
    decode (specBytes 0x02 r a b) = .ok (.sub a b r) ∧
    ∀ s : State, ∃ t : State, exec (.sub a b r) s = .next t ∧
      ((t.reg a).toNat : Int) = ((s.reg a).toNat - (s.reg b).toNat : Int) % 4294967296 ∧
      KeepsRegsExcept [a] s t ∧ KeepsMemory s t ∧ KeepsReport s t ∧ t.run = s.run ∧ Advanced false r s t

/-- XOR (42_register_register.md R132). -/
def Obligations.XorWritesExclusiveOr : Prop :=
  ∀ (a b : RegIdx) (r : Bool),
    decode (specBytes 0x03 r a b) = .ok (.xor a b r) ∧
    ∀ s : State, ∃ t : State, exec (.xor a b r) s = .next t ∧
      (∀ k, k < 32 → (t.reg a).getLsbD k = ((s.reg a).getLsbD k ^^ (s.reg b).getLsbD k)) ∧
      KeepsRegsExcept [a] s t ∧ KeepsMemory s t ∧ KeepsReport s t ∧ t.run = s.run ∧ Advanced false r s t

/-- ROL (42_register_register.md R133), over the model's `rotl`; RotatesAreCircularShifts says what that is. -/
def Obligations.RolRotatesLeftByRegister : Prop :=
  ∀ (a b : RegIdx) (r : Bool),
    decode (specBytes 0x04 r a b) = .ok (.rol a b r) ∧
    ∀ s : State, ∃ t : State, exec (.rol a b r) s = .next t ∧
      t.reg a = rotl (s.reg a) ((s.reg b).toNat % 32) ∧
      KeepsRegsExcept [a] s t ∧ KeepsMemory s t ∧ KeepsReport s t ∧ t.run = s.run ∧ Advanced false r s t

/-- ROR (42_register_register.md R134), over the model's `rotr`; RotatesAreCircularShifts says what that is. -/
def Obligations.RorRotatesRightByRegister : Prop :=
  ∀ (a b : RegIdx) (r : Bool),
    decode (specBytes 0x05 r a b) = .ok (.ror a b r) ∧
    ∀ s : State, ∃ t : State, exec (.ror a b r) s = .next t ∧
      t.reg a = rotr (s.reg a) ((s.reg b).toNat % 32) ∧
      KeepsRegsExcept [a] s t ∧ KeepsMemory s t ∧ KeepsReport s t ∧ t.run = s.run ∧ Advanced false r s t

/-- SWP (42_register_register.md R135). -/
def Obligations.SwpExchangesRegisters : Prop :=
  ∀ (a b : RegIdx) (r : Bool),
    decode (specBytes 0x08 r a b) = .ok (.swp a b r) ∧
    ∀ s : State, ∃ t : State, exec (.swp a b r) s = .next t ∧
      t.reg a = s.reg b ∧ t.reg b = s.reg a ∧
      KeepsRegsExcept [a, b] s t ∧ KeepsMemory s t ∧ KeepsReport s t ∧ t.run = s.run ∧ Advanced false r s t

/-- ADDI (43_register_immediate.md R150); `ext` is the signed extension value, see ExtensionWordIsSigned. -/
def Obligations.AddiAddsImmediate : Prop :=
  ∀ (a : RegIdx) (r : Bool),
    (∀ (u : RegIdx) (lo hi : Byte),
      decode (specBytes 0x21 r a u ++ [lo, hi]) = .ok (.addi a (sext (halfOfBytes lo hi)) r)) ∧
    ∀ (ext : Int) (s : State), ∃ t : State, exec (.addi a ext r) s = .next t ∧
      ((t.reg a).toNat : Int) = ((s.reg a).toNat + ext) % 4294967296 ∧
      KeepsRegsExcept [a] s t ∧ KeepsMemory s t ∧ KeepsReport s t ∧ t.run = s.run ∧ Advanced true r s t

/-- SUBI (43_register_immediate.md R151). -/
def Obligations.SubiSubtractsImmediate : Prop :=
  ∀ (a : RegIdx) (r : Bool),
    (∀ (u : RegIdx) (lo hi : Byte),
      decode (specBytes 0x22 r a u ++ [lo, hi]) = .ok (.subi a (sext (halfOfBytes lo hi)) r)) ∧
    ∀ (ext : Int) (s : State), ∃ t : State, exec (.subi a ext r) s = .next t ∧
      ((t.reg a).toNat : Int) = ((s.reg a).toNat - ext) % 4294967296 ∧
      KeepsRegsExcept [a] s t ∧ KeepsMemory s t ∧ KeepsReport s t ∧ t.run = s.run ∧ Advanced true r s t

/-- XORI (43_register_immediate.md R152). -/
def Obligations.XoriXorsSignExtendedImmediate : Prop :=
  ∀ (a : RegIdx) (r : Bool),
    (∀ (u : RegIdx) (lo hi : Byte),
      decode (specBytes 0x23 r a u ++ [lo, hi]) = .ok (.xori a (sext (halfOfBytes lo hi)) r)) ∧
    ∀ (ext : Int) (s : State), ∃ t : State, exec (.xori a ext r) s = .next t ∧
      (∀ k, k < 32 → (t.reg a).getLsbD k = ((s.reg a).getLsbD k ^^ (ext % 4294967296).toNat.testBit k)) ∧
      KeepsRegsExcept [a] s t ∧ KeepsMemory s t ∧ KeepsReport s t ∧ t.run = s.run ∧ Advanced true r s t

/-- ROLI (43_register_immediate.md R153), over the model's `rotl`; see RotatesAreCircularShifts. -/
def Obligations.RoliRotatesLeftByImmediate : Prop :=
  ∀ (a : RegIdx) (r : Bool),
    (∀ (u : RegIdx) (lo hi : Byte),
      decode (specBytes 0x24 r a u ++ [lo, hi]) = .ok (.roli a (sext (halfOfBytes lo hi)) r)) ∧
    ∀ (ext : Int) (s : State), ∃ t : State, exec (.roli a ext r) s = .next t ∧
      t.reg a = rotl (s.reg a) (ext % 32).toNat ∧
      KeepsRegsExcept [a] s t ∧ KeepsMemory s t ∧ KeepsReport s t ∧ t.run = s.run ∧ Advanced true r s t

/-- RORI (43_register_immediate.md R154), over the model's `rotr`; see RotatesAreCircularShifts. -/
def Obligations.RoriRotatesRightByImmediate : Prop :=
  ∀ (a : RegIdx) (r : Bool),
    (∀ (u : RegIdx) (lo hi : Byte),
      decode (specBytes 0x25 r a u ++ [lo, hi]) = .ok (.rori a (sext (halfOfBytes lo hi)) r)) ∧
    ∀ (ext : Int) (s : State), ∃ t : State, exec (.rori a ext r) s = .next t ∧
      t.reg a = rotr (s.reg a) (ext % 32).toNat ∧
      KeepsRegsExcept [a] s t ∧ KeepsMemory s t ∧ KeepsReport s t ∧ t.run = s.run ∧ Advanced true r s t

/-- MSWP (44_memory_swap.md R170): its completion inside memory, and its trap outside (decision D3 of the
spec). -/
def Obligations.MswpExchangesRegisterAndWord : Prop :=
  ∀ (a b : RegIdx) (r : Bool),
    (∀ lo hi : Byte, decode (specBytes 0x29 r a b ++ [lo, hi]) = .ok (.mswp a b (sext (halfOfBytes lo hi)) r)) ∧
    ∀ (ext : Int) (s : State),
      effectiveAddress b ext s = (s.reg b).toNat + ext ∧
      ∃ t : State, exec (.mswp a b ext r) s = .next t ∧
        if 0 ≤ effectiveAddress b ext s ∧ effectiveAddress b ext s + 4 ≤ 1048576 then
          (t.reg a).toNat =
            (s.mem.readByte (effectiveAddress b ext s).toNat).toNat
              + 256 * (s.mem.readByte ((effectiveAddress b ext s).toNat + 1)).toNat
              + 65536 * (s.mem.readByte ((effectiveAddress b ext s).toNat + 2)).toNat
              + 16777216 * (s.mem.readByte ((effectiveAddress b ext s).toNat + 3)).toNat ∧
          (∀ k : Nat, k < 4 → (t.mem.readByte ((effectiveAddress b ext s).toNat + k)).toNat
            = (s.reg a).toNat / 256 ^ k % 256) ∧
          KeepsMemoryOutside (effectiveAddress b ext s).toNat 4 s t ∧
          KeepsRegsExcept [a] s t ∧ KeepsReport s t ∧ t.run = s.run ∧ Advanced true r s t
        else TrapTaken 3 (effectiveAddress b ext s) s t

/-- MSWP's address (44_memory_swap.md R171; decision D3 of the spec). -/
def Obligations.MswpAddressDoesNotWrap : Prop :=
  ∀ (a b : RegIdx) (ext : Int) (r : Bool) (s : State),
    effectiveAddress b ext s = (s.reg b).toNat + ext ∧
    (0 ≤ effectiveAddress b ext s ∧ effectiveAddress b ext s ≤ 1048572 →
      ∃ t : State, exec (.mswp a b ext r) s = .next t ∧ t.run = s.run ∧ t.tcause = s.tcause ∧ t.tinfo = s.tinfo) ∧
    (¬ (0 ≤ effectiveAddress b ext s ∧ effectiveAddress b ext s ≤ 1048572) →
      ∃ t : State, exec (.mswp a b ext r) s = .next t ∧ TrapTaken 3 (effectiveAddress b ext s) s t)

/-- JEQ (45_control_flow.md R181). -/
def Obligations.JeqBranchesOnEqual : Prop :=
  ∀ (a b : RegIdx) (r : Bool),
    (∀ lo hi : Byte, decode (specBytes 0x30 r a b ++ [lo, hi]) = .ok (.jeq a b (sext (halfOfBytes lo hi)) r)) ∧
    ∀ (ext : Int) (s : State), ∃ t : State, exec (.jeq a b ext r) s = .next t ∧
      KeepsRegsExcept [] s t ∧ KeepsMemory s t ∧ KeepsReport s t ∧ t.run = s.run ∧
      if (s.reg a).toNat = (s.reg b).toNat then Branched ext r s t else Advanced true r s t

/-- JNE (45_control_flow.md R182). -/
def Obligations.JneBranchesOnNotEqual : Prop :=
  ∀ (a b : RegIdx) (r : Bool),
    (∀ lo hi : Byte, decode (specBytes 0x31 r a b ++ [lo, hi]) = .ok (.jne a b (sext (halfOfBytes lo hi)) r)) ∧
    ∀ (ext : Int) (s : State), ∃ t : State, exec (.jne a b ext r) s = .next t ∧
      KeepsRegsExcept [] s t ∧ KeepsMemory s t ∧ KeepsReport s t ∧ t.run = s.run ∧
      if (s.reg a).toNat ≠ (s.reg b).toNat then Branched ext r s t else Advanced true r s t

/-- JLT (45_control_flow.md R183). -/
def Obligations.JltBranchesOnBelow : Prop :=
  ∀ (a b : RegIdx) (r : Bool),
    (∀ lo hi : Byte, decode (specBytes 0x32 r a b ++ [lo, hi]) = .ok (.jlt a b (sext (halfOfBytes lo hi)) r)) ∧
    ∀ (ext : Int) (s : State), ∃ t : State, exec (.jlt a b ext r) s = .next t ∧
      KeepsRegsExcept [] s t ∧ KeepsMemory s t ∧ KeepsReport s t ∧ t.run = s.run ∧
      if (s.reg a).toNat < (s.reg b).toNat then Branched ext r s t else Advanced true r s t

/-- JGT (45_control_flow.md R184). -/
def Obligations.JgtBranchesOnAbove : Prop :=
  ∀ (a b : RegIdx) (r : Bool),
    (∀ lo hi : Byte, decode (specBytes 0x33 r a b ++ [lo, hi]) = .ok (.jgt a b (sext (halfOfBytes lo hi)) r)) ∧
    ∀ (ext : Int) (s : State), ∃ t : State, exec (.jgt a b ext r) s = .next t ∧
      KeepsRegsExcept [] s t ∧ KeepsMemory s t ∧ KeepsReport s t ∧ t.run = s.run ∧
      if (s.reg a).toNat > (s.reg b).toNat then Branched ext r s t else Advanced true r s t

/-- JLE (45_control_flow.md R185). -/
def Obligations.JleBranchesOnBelowOrEqual : Prop :=
  ∀ (a b : RegIdx) (r : Bool),
    (∀ lo hi : Byte, decode (specBytes 0x34 r a b ++ [lo, hi]) = .ok (.jle a b (sext (halfOfBytes lo hi)) r)) ∧
    ∀ (ext : Int) (s : State), ∃ t : State, exec (.jle a b ext r) s = .next t ∧
      KeepsRegsExcept [] s t ∧ KeepsMemory s t ∧ KeepsReport s t ∧ t.run = s.run ∧
      if (s.reg a).toNat ≤ (s.reg b).toNat then Branched ext r s t else Advanced true r s t

/-- JGE (45_control_flow.md R186). -/
def Obligations.JgeBranchesOnAboveOrEqual : Prop :=
  ∀ (a b : RegIdx) (r : Bool),
    (∀ lo hi : Byte, decode (specBytes 0x35 r a b ++ [lo, hi]) = .ok (.jge a b (sext (halfOfBytes lo hi)) r)) ∧
    ∀ (ext : Int) (s : State), ∃ t : State, exec (.jge a b ext r) s = .next t ∧
      KeepsRegsExcept [] s t ∧ KeepsMemory s t ∧ KeepsReport s t ∧ t.run = s.run ∧
      if (s.reg a).toNat ≥ (s.reg b).toNat then Branched ext r s t else Advanced true r s t

/-- JMP (45_control_flow.md R187). -/
def Obligations.JmpAlwaysBranches : Prop :=
  ∀ r : Bool,
    (∀ (a b : RegIdx) (lo hi : Byte),
      decode (specBytes 0x36 r a b ++ [lo, hi]) = .ok (.jmp (sext (halfOfBytes lo hi)) r)) ∧
    ∀ (ext : Int) (s : State), ∃ t : State, exec (.jmp ext r) s = .next t ∧
      KeepsRegsExcept [] s t ∧ KeepsMemory s t ∧ KeepsReport s t ∧ t.run = s.run ∧ Branched ext r s t

/-- 40_cycle.md R100, R106. -/
def Obligations.StepRunsTheDecodedInstruction : Prop :=
  ∀ (s : State) (i : Instr), s.run = .running → 0 ≤ s.pc → s.pc + lengthOf i ≤ 1048576 → i.wellFormed = true →
    decode (readBytes s.mem s.pc.toNat (lengthOf i)) = .ok i → step s = exec i s

/-- 40_cycle.md R113 (decision D16 of the spec). -/
def Obligations.StoppedCoreTakesNoStep : Prop :=
  ∀ s : State, RunEnded s →
    step s = .next s ∧ (∀ k : Nat, Host.Core.run core k s = .next s) ∧ (hostReset s).run = .running

/-- 40_cycle.md R101 (decision D1 of the spec). -/
def Obligations.FetchOutOfRangeTraps : Prop :=
  ∀ s : State, s.run = .running →
    (s.pc < 0 ∨ 1048576 < s.pc + 2 → ∃ t : State, step s = .next t ∧ TrapTaken 1 s.pc s t) ∧
    (0 ≤ s.pc → s.pc + 2 ≤ 1048576 → extendedBit (firstWord s.mem s.pc.toNat) = false →
      ∃ t : State, step s = .next t ∧ ¬ (t.run = .trapped ∧ t.tcause = 1))

/-- 40_cycle.md R103, 60_exceptions.md R202 (decision D1 of the spec). -/
def Obligations.ExtensionFetchOutOfRangeTraps : Prop :=
  ∀ s : State, s.run = .running → 0 ≤ s.pc → s.pc + 2 ≤ 1048576 → extendedBit (firstWord s.mem s.pc.toNat) = true →
    1048576 < s.pc + 4 → ∃ t : State, step s = .next t ∧ TrapTaken 1 (s.pc + 2) s t

/-- 40_cycle.md R110 and 60_exceptions.md R205, which the spec marks as derived from its step (decision D27). -/
def Obligations.TrapsFollowPhaseOrder : Prop :=
  ∀ s : State, s.run = .running →
    ∃ t : State, step s = .next t ∧
      let w := firstWord s.mem s.pc.toNat
      let ea := effectiveAddress (reg2Field w) (sext (firstWord s.mem (s.pc.toNat + 2))) s
      if s.pc < 0 ∨ 1048576 < s.pc + 2 then TrapTaken 1 s.pc s t
      else if w.toNat / 32 % 2 = 1 ∧ 1048576 < s.pc + 4 then TrapTaken 1 (s.pc + 2) s t
      else if w.toNat % 64 ∈ unassignedOpcodes ∧ s.params.illegalOpcode = .trap then TrapTaken 2 w.toNat s t
      else if w.toNat % 64 = 0x29 ∧ ¬ (0 ≤ ea ∧ ea + 4 ≤ 1048576) then TrapTaken 3 ea s t
      else t.run ≠ .trapped ∧ t.tcause = s.tcause ∧ t.tinfo = s.tinfo

/-- 40_cycle.md R105 (decision D2 of the spec). -/
def Obligations.UnassignedOpcodeFollowsParameter : Prop :=
  opcodeMap.length = 21 ∧
  ∀ s : State, s.run = .running → 0 ≤ s.pc → s.pc + 2 ≤ 1048576 →
    (extendedBit (firstWord s.mem s.pc.toNat) = true → s.pc + 4 ≤ 1048576) →
    (firstWord s.mem s.pc.toNat).toNat % 64 ∉ opcodeMap →
    ∃ t : State, step s = .next t ∧
      match s.params.illegalOpcode with
      | .trap => TrapTaken 2 (firstWord s.mem s.pc.toNat).toNat s t
      | .nop => t.run = .running ∧ KeepsRegsExcept [] s t ∧ KeepsMemory s t ∧ KeepsReport s t ∧
          Advanced (extendedBit (firstWord s.mem s.pc.toNat)) (retroBit (firstWord s.mem s.pc.toNat)) s t
      | .halt => t.run = .halted ∧ KeepsRegsExcept [] s t ∧ KeepsMemory s t ∧ KeepsReport s t ∧
          Advanced (extendedBit (firstWord s.mem s.pc.toNat)) (retroBit (firstWord s.mem s.pc.toNat)) s t

/-- The decoder is total (R102) and every trap is a state (R200). -/
def Obligations.EveryStepAnswersNext : Prop :=
  (∀ s : State, ∃ t : State, step s = .next t) ∧
  ∀ (k : Nat) (s : State), ∃ t : State, Host.Core.run core k s = .next t

/-- The transitions into Halted of 10_state.md R26. -/
def Obligations.OnlyHltOrIllegalOpcodeHalts : Prop :=
  ∀ s t : State, s.run = .running → step s = .next t →
    (t.run = .halted ↔ ∃ bytes : List Byte, fetch s = .ok bytes ∧
      ((∃ r : Bool, decode bytes = .ok (.hlt r)) ∨
        ((∃ e : DecodeReject, decode bytes = .error e) ∧ s.params.illegalOpcode = .halt)))

/-- The parameters are no state (10_state.md R34; log entry 1, a DESIGN CHOICE of the model). -/
def Obligations.StepKeepsParameters : Prop :=
  ∀ s t : State, step s = .next t → t.params = s.params

/-- 10_state.md R22, which the spec marks as derived. -/
def Obligations.OnlyWrittenRegistersChange : Prop :=
  ∀ (i : Instr) (s t : State), exec i s = .next t → KeepsRegsExcept (writtenRegs i) s t

/-- 10_state.md R22, which the spec marks as derived. -/
def Obligations.OnlyReadRegistersMatter : Prop :=
  ∀ (i : Instr) (s s' t t' : State), (∀ c : RegIdx, c ∈ readRegs i → s'.reg c = s.reg c) → observe s' = { observe s with regs := s'.regs } →
    s'.params = s.params → exec i s = .next t → exec i s' = .next t' →
    (∀ c : RegIdx, c ∈ writtenRegs i → t'.reg c = t.reg c) ∧ observe t' = { observe t with regs := t'.regs }

/-- 20_memory.md R40, R45. -/
def Obligations.OnlyMswpChangesMemory : Prop :=
  ∀ (s t : State) (x : Nat), step s = .next t → t.mem.readByte x ≠ s.mem.readByte x →
    s.run = .running ∧ ∃ (bytes : List Byte) (a b : RegIdx) (ext : Int) (r : Bool),
      fetch s = .ok bytes ∧ decode bytes = .ok (.mswp a b ext r) ∧
      effectiveAddress b ext s ≤ x ∧ (x : Int) < effectiveAddress b ext s + 4

/-- 20_memory.md R40: no other instruction reaches memory. -/
def Obligations.OnlyMswpReadsDataMemory : Prop :=
  ∀ (i : Instr) (s : State) (m : Memory), opcodeOf i ≠ 0x29 →
    ∃ t : State, exec i s = .next t ∧ exec i (s.setMem m) = .next (t.setMem m)

/-- Instruction-fetch coherence, 20_memory.md R54, which the spec marks as derived; the e-bit and the range of the
extension fetch are 40_cycle.md R103. -/
def Obligations.StoredBytesAreFetchedNext : Prop :=
  ∀ (a b : RegIdx) (ext : Int) (r : Bool) (s : State),
    0 ≤ effectiveAddress b ext s → effectiveAddress b ext s + 4 ≤ 1048576 →
    ∃ t : State, exec (.mswp a b ext r) s = .next t ∧
      let stored : Nat → Byte := fun k => BitVec.ofNat 8 ((s.reg a).toNat / 256 ^ k)
      ∀ u : State, u.mem = t.mem →
        (u.pc = effectiveAddress b ext s →
          fetch u = if (stored 0).toNat / 32 % 2 = 1 then .ok [stored 0, stored 1, stored 2, stored 3]
            else .ok [stored 0, stored 1]) ∧
        (u.pc = effectiveAddress b ext s + 2 →
          fetch u = if (stored 2).toNat / 32 % 2 = 1 then
              if effectiveAddress b ext s + 6 ≤ 1048576 then
                .ok [stored 2, stored 3, s.mem.readByte ((effectiveAddress b ext s).toNat + 4),
                  s.mem.readByte ((effectiveAddress b ext s).toNat + 5)]
              else .error (effectiveAddress b ext s + 4)
            else .ok [stored 2, stored 3])

/-- 00_scope.md R14. -/
def Obligations.MemReadWriteAreLittleEndian : Prop :=
  ∀ (m : Memory) (a n v : Nat), a + n ≤ 1048576 →
    memRead m a n = ∑ k ∈ Finset.range n, (m.readByte (a + k)).toNat * 2 ^ (8 * k) ∧
    (∀ k : Nat, k < n → ((memWrite m a n v).readByte (a + k)).toNat = v / 2 ^ (8 * k) % 256) ∧
    (∀ x : Nat, ¬ (a ≤ x ∧ x < a + n) → (memWrite m a n v).readByte x = m.readByte x) ∧
    memRead (memWrite m a n v) a n = v % 2 ^ (8 * n)

/-- 42_register_register.md R128, which the spec marks 'from general knowledge, not in source' (G2). -/
def Obligations.RotatesAreCircularShifts : Prop :=
  ∀ (v : Word) (n : Nat), n < 32 →
    (∀ k : Nat, k < 32 → (rotl v n).getLsbD k = v.getLsbD ((k + 32 - n) % 32)) ∧
    (rotl v n).toNat = v.toNat * 2 ^ n % 4294967296 + v.toNat / 2 ^ (32 - n) ∧
    rotr v n = rotl v ((32 - n) % 32) ∧
    rotr (rotl v n) n = v

/-- 30_encoding.md R64 with 00_scope.md R13, whose two's complement the spec marks as its own (G1). -/
def Obligations.ExtensionWordIsSigned : Prop :=
  ∀ lo hi : Byte,
    -32768 ≤ sext (halfOfBytes lo hi) ∧ sext (halfOfBytes lo hi) ≤ 32767 ∧
      sext (halfOfBytes lo hi) % 65536 = (lo.toNat + 256 * hi.toNat : Int)

/-- 95_test_vectors.md E-8, E-10, P2, P5 and V-L10; 30_encoding.md R73, R74. -/
def Obligations.DecodesSpecWords : Prop :=
  decode [0x00, 0x00] = .ok (.nop false) ∧ decode [0x0F, 0x00] = .ok (.hlt false) ∧
  decode [0x01, 0x21] = .ok (.add 1 2 false) ∧ decode [0x21, 0x01, 0x34, 0x12] = .ok (.addi 1 0x1234 false) ∧
  decode [0x69, 0x52, 0xFC, 0xFF] = .ok (.mswp 2 5 (-4) true) ∧
  decode [0x30, 0x21, 0x04, 0x00] = .ok (.jeq 1 2 4 false) ∧ decode [0x36, 0x00, 0x04, 0x00] = .ok (.jmp 4 false) ∧
  decode [0x76, 0x00, 0xFC, 0xFF] = .ok (.jmp (-4) true) ∧ decode [0x06, 0x21] = .error (.unassignedOpcode 0x06)

/-- 30_encoding.md R66 (90_conflicts.md C3). -/
def Obligations.OpcodeAloneSelectsInstruction : Prop :=
  (∀ b0 b1 b2 b3 : Byte, (∃ i : Instr, decode [b0, b1, b2, b3] = .ok i) ↔ b0.toNat % 64 ∈ opcodeMap) ∧
  (∀ (b0 b1 b2 b3 : Byte) (i : Instr), decode [b0, b1, b2, b3] = .ok i → opcodeOf i = b0.toNat % 64) ∧
  (∀ (b0 c0 b1 b2 b3 : Byte) (i j : Instr), b0.toNat % 64 = c0.toNat % 64 → decode [b0, b1, b2, b3] = .ok i →
    decode [c0, b1, b2, b3] = .ok j → clearRetro i = clearRetro j)

/-- 30_encoding.md R74, R77. -/
def Obligations.FortyThreeOpcodesAreUnassigned : Prop :=
  unassignedOpcodes.length = 43 ∧
  (∀ n : Nat, n < 64 → (n ∈ unassignedOpcodes ↔ n ∉ opcodeMap)) ∧
  ∀ b0 b1 b2 b3 : Byte, b0.toNat % 64 ∈ unassignedOpcodes ↔
    decode [b0, b1, b2, b3] = .error (.unassignedOpcode (BitVec.ofNat 6 b0.toNat))

/-- 30_encoding.md R75, whose decoder half the spec marks as derived. -/
def Obligations.IgnoredBitsHaveNoEffect : Prop :=
  (∀ b0 b1 b2 b3 : Byte, decode [b0 ||| 0x80, b1, b2, b3] = decode [b0, b1, b2, b3]) ∧
  (∀ b0 b1 c1 b2 b3 : Byte, b0.toNat % 64 ∈ [0x00, 0x0F, 0x36] → decode [b0, b1, b2, b3] = decode [b0, c1, b2, b3]) ∧
  (∀ b0 b1 c1 b2 b3 : Byte, b0.toNat % 64 ∈ [0x21, 0x22, 0x23, 0x24, 0x25] → b1.toNat % 16 = c1.toNat % 16 →
    decode [b0, b1, b2, b3] = decode [b0, c1, b2, b3])

/-- 30_encoding.md R67. -/
def Obligations.LengthFollowsExtendedBit : Prop :=
  ∀ (b0 b1 : Byte) (rest : List Byte) (i : Instr), decode (b0 :: b1 :: rest) = .ok i →
    lengthOf i = 2 + 2 * (b0.toNat / 32 % 2) ∧
    lengthOf i ≤ (b0 :: b1 :: rest).length ∧
    (∀ more : List Byte, decode ((b0 :: b1 :: rest).take (lengthOf i) ++ more) = .ok i) ∧
    ∀ j : Instr, decode ((b0 ^^^ 0x40) :: b1 :: rest) = .ok j → lengthOf j = lengthOf i

/-- 30_encoding.md R68, 40_cycle.md R104; on a trap R109 discards the length tracking with everything else. -/
def Obligations.RetroBitOnlyMovesStepLength : Prop :=
  (∀ (i : Instr) (s t : State), retroOf i = true → exec i s = .next t →
    (∀ (a b : RegIdx) (ext : Int) (r : Bool), i = .mswp a b ext r →
      0 ≤ effectiveAddress b ext s ∧ effectiveAddress b ext s + 4 ≤ 1048576) →
    exec (clearRetro i) { s with sl := s.sl - 2 } = .next t) ∧
  ∀ (a b : RegIdx) (ext : Int) (s : State),
    ¬ (0 ≤ effectiveAddress b ext s ∧ effectiveAddress b ext s + 4 ≤ 1048576) →
    ∃ t : State, exec (.mswp a b ext true) s = .next t ∧ TrapTaken 3 (effectiveAddress b ext s) s t ∧
      exec (.mswp a b ext false) { s with sl := s.sl - 2 } = .next { t with sl := s.sl - 2 }

/-- 30_encoding.md R60 to R66, R72, R73. -/
def Obligations.DecodeInvertsEncode : Prop :=
  ∀ (i : Instr) (rest : List Byte), i.wellFormed = true →
    decode (encode i ++ rest) = .ok i ∧ (encode i).length = lengthOf i

/-- 30_encoding.md R64. -/
def Obligations.DecodedInstructionsAreWellFormed : Prop :=
  ∀ (bytes : List Byte) (i : Instr), decode bytes = .ok i → i.wellFormed = true ∧ decode (encode i) = .ok i

/-- 40_cycle.md R111, an inference the spec marks as its own. -/
def Obligations.StraightLineAdvancesByLength : Prop :=
  ∀ (i : Instr) (s t : State) (len : Nat), len = 2 ∨ len = 4 → s.sl = len → (retroOf i = true ↔ len = 4) →
    takenDisplacement s i = none → exec i s = .next t → t.run ≠ .trapped →
    t.sl = lengthOf i ∧ t.pc = s.pc + lengthOf i

/-- 40_cycle.md R112, an inference the spec marks as its own. -/
def Obligations.ResidualLaw : Prop :=
  ∀ (i : Instr) (s t : State) (len : Nat), len = 2 ∨ len = 4 → exec i s = .next t → t.run ≠ .trapped →
    t.sl - lengthOf i = s.sl - len + 2 * ((if len = 4 then 1 else 0) - (if retroOf i then 1 else 0)) +
      (if s.params.branchResidual = .persist then (takenDisplacement s i).getD 0 else 0) ∧
    t.pc - s.pc = lengthOf i + (t.sl - lengthOf i) +
      (if s.params.branchResidual = .transient then (takenDisplacement s i).getD 0 else 0)

/-- 45_control_flow.md R188, an inference the spec marks as its own. -/
def Obligations.TakenBranchTarget : Prop :=
  ∀ (i : Instr) (s : State) (len : Nat) (rho ext : Int), len = 2 ∨ len = 4 → s.sl = len + rho →
    (retroOf i = true ↔ len = 4) → takenDisplacement s i = some ext →
    ∃ t : State, exec i s = .next t ∧ t.pc = s.pc + 4 + rho + ext ∧
      t.sl - 4 = if s.params.branchResidual = .persist then rho + ext else rho

/-- 10_state.md R32 (sl = 2 is decision D6 of the spec, the trap report's reset values decision D5). -/
def Obligations.LaunchLeavesResetValues : Prop :=
  ∀ (p : Params) (image : List Byte), image.length ≤ 1048576 →
    ∃ s : State, launch p image = .next s ∧ s.run = .running ∧ s.pc = 0 ∧ s.sl = 2 ∧ (∀ c : RegIdx, s.reg c = 0) ∧
      s.tcause = 0 ∧ s.tinfo = 0 ∧
      (∀ (a : Nat) (h : a < image.length), s.mem.readByte a = image[a]) ∧
      (∀ a : Nat, image.length ≤ a → s.mem.readByte a = 0)

/-- 70_reset_and_hazards.md R221 (decision D21 of the spec). -/
def Obligations.OversizedImageIsRefused : Prop :=
  ∀ (p : Params) (image : List Byte), 1048576 < image.length → launch p image = .refused .imageTooLarge

/-- 70_reset_and_hazards.md R220 (decision D28 of the spec). -/
def Obligations.ResetKeepsMemory : Prop :=
  ∀ s : State, (hostReset s).run = .running ∧ (hostReset s).pc = 0 ∧ (hostReset s).sl = 2 ∧
    (∀ c : RegIdx, (hostReset s).reg c = 0) ∧ (hostReset s).tcause = 0 ∧ (hostReset s).tinfo = 0 ∧
    (hostReset s).mem = s.mem ∧ (hostReset s).params = s.params

/-- The first states of EveryStepKeepsMemoryCanonical, EveryStepKeepsTrapReport and EveryStepKeepsCursorBound. -/
def Obligations.ResetMeetsInvariants : Prop :=
  State.reset.mem.wf = true ∧ TrapReportConsistent State.reset ∧ CursorBounded State.reset

/-- 10_state.md R30, 20_memory.md R41, R46; the list form is the model's own. -/
def Obligations.EveryStepKeepsMemoryCanonical : Prop :=
  ∀ s t : State, s.mem.wf = true → step s = .next t → t.mem.wf = true

/-- 10_state.md R27, 60_exceptions.md R201. -/
def Obligations.EveryStepKeepsTrapReport : Prop :=
  (∀ s t : State, TrapReportConsistent s → step s = .next t → TrapReportConsistent t) ∧
  ∀ s t : State, s.run = .running → step s = .next t → t.run = .trapped → t.tcause = 1 ∨ t.tcause = 2 ∨ t.tcause = 3

/-- 10_state.md R25, whose bound the spec marks as derived; under transient the figures are the model's (log entry 9). -/
def Obligations.EveryStepKeepsCursorBound : Prop :=
  (∀ s t : State, CursorBounded s → step s = .next t → CursorBounded t) ∧
  ∀ s : State, CursorBounded s →
    -4194304 ≤ s.pc ∧ s.pc < 4194304 ∧ -4194304 ≤ s.sl ∧ s.sl < 4194304

/-- The model's choice, which no rule of the spec states: State.reset as the launch of the empty image (log entry 4, a DESIGN
CHOICE), and the parameters held in the state (log entry 1, a DESIGN CHOICE). -/
def Obligations.ResetStateIsEmptyLaunch : Prop :=
  (∀ (p : Params) (image : List Byte), image.length ≤ 1048576 → ∃ s : State, launch p image = .next s ∧ s.params = p) ∧
  launch defaults [] = .next State.reset
end

