-- ==== Sys2Proof/Laws/Decode.lean ====
section
/-! SUPPORT. What the decoder's fields read from the encoder's bytes, and what an answer of the decoder says. -/

namespace Sys2Proof

/-- A 16-bit word is its low byte plus 256 times its high byte (20_memory.md R43). -/
theorem halfOfBytes_toNat (lo hi : Byte) : (halfOfBytes lo hi).toNat = lo.toNat + 256 * hi.toNat := by
  have h := lo.isLt
  refine (BitVec.toNat_append hi lo).trans ?_
  rw [Nat.shiftLeft_eq, Nat.mul_comm, ← Nat.two_pow_add_eq_or_of_lt h]; omega

/-- The e-bit as a number (30_encoding.md R63). -/
theorem extendedBit_eq (w : Half) : extendedBit w = decide (w.toNat / 32 % 2 = 1) := by
  rw [extendedBit, ← BitVec.testBit_toNat, Nat.testBit_eq_decide_div_mod_eq]

/-- The bits of a 16-bit word come from its low byte, then its high byte (20_memory.md R43). -/
theorem halfOfBytes_getLsbD (lo hi : Byte) (i : Nat) :
    (halfOfBytes lo hi).getLsbD i = if i < 8 then lo.getLsbD i else hi.getLsbD (i - 8) :=
  BitVec.getLsbD_append

/-- The bits of the opcode byte (30_encoding.md R65). -/
theorem opcodeByte_getLsbD (opc : BitVec 6) (r : Bool) (i : Nat) :
    (opcodeByte opc r).getLsbD i = if i < 6 then opc.getLsbD i else (0#1 ++ BitVec.ofBool r).getLsbD (i - 6) :=
  BitVec.getLsbD_append

/-- The bits of the register byte (30_encoding.md R61). -/
theorem registerByte_getLsbD (a b : RegIdx) (i : Nat) :
    (registerByte a b).getLsbD i =
      if i < 4 then (BitVec.ofFin a : BitVec 4).getLsbD i else (BitVec.ofFin b : BitVec 4).getLsbD (i - 4) :=
  BitVec.getLsbD_append

@[simp] theorem opcodeField_encoded (opc : BitVec 6) (r : Bool) (b1 : Byte) :
    opcodeField (halfOfBytes (opcodeByte opc r) b1) = opc := by
  apply BitVec.eq_of_getLsbD_eq
  intro i hi
  rw [opcodeField, BitVec.getLsbD_extractLsb', Nat.zero_add, halfOfBytes_getLsbD, opcodeByte_getLsbD]
  simp [hi, show i < 8 by omega]

@[simp] theorem extendedBit_encoded (opc : BitVec 6) (r : Bool) (b1 : Byte) :
    extendedBit (halfOfBytes (opcodeByte opc r) b1) = opc.getLsbD 5 := by
  rw [extendedBit, halfOfBytes_getLsbD, opcodeByte_getLsbD]; rfl

@[simp] theorem retroBit_encoded (opc : BitVec 6) (r : Bool) (b1 : Byte) :
    retroBit (halfOfBytes (opcodeByte opc r) b1) = r := by
  rw [retroBit, halfOfBytes_getLsbD, opcodeByte_getLsbD]; cases r <;> rfl

@[simp] theorem reg1Field_encoded (b0 : Byte) (a b : RegIdx) :
    reg1Field (halfOfBytes b0 (registerByte a b)) = a := by
  have h : (halfOfBytes b0 (registerByte a b)).extractLsb' 8 4 = BitVec.ofFin (w := 4) a := by
    apply BitVec.eq_of_getLsbD_eq
    intro i hi
    rw [BitVec.getLsbD_extractLsb', halfOfBytes_getLsbD, registerByte_getLsbD]
    simp [hi]
  unfold reg1Field
  rw [h]

@[simp] theorem reg2Field_encoded (b0 : Byte) (a b : RegIdx) :
    reg2Field (halfOfBytes b0 (registerByte a b)) = b := by
  have h : (halfOfBytes b0 (registerByte a b)).extractLsb' 12 4 = BitVec.ofFin (w := 4) b := by
    apply BitVec.eq_of_getLsbD_eq
    intro i hi
    rw [BitVec.getLsbD_extractLsb', halfOfBytes_getLsbD, registerByte_getLsbD]
    simp [hi, show ¬ (12 + i < 8) by omega, show 12 + i - 8 = i + 4 by omega]
  unfold reg2Field
  rw [h]

/-- A signed extension value lies in the 16-bit range (30_encoding.md R64). -/
theorem sext_inRange (v : Half) : extInRange (sext v) = true := by
  have h := v.isLt
  have hm : v.getLsbD 15 = decide (32768 ≤ v.toNat) := by
    have : v.msb = v.getLsbD 15 := rfl
    rw [← this, BitVec.msb_eq_decide]
  unfold sext extInRange
  rw [hm]
  by_cases hv : 32768 ≤ v.toNat <;> simp [hv] <;> omega

/-- The fetched extension of an encoded instruction is the word the encoder wrote. -/
@[simp] theorem halfOfBytes_split (x : Half) : halfOfBytes (x.extractLsb' 0 8) (x.extractLsb' 8 8) = x := by
  apply BitVec.eq_of_getLsbD_eq
  intro i hi
  rw [halfOfBytes_getLsbD]
  split
  · simp [*]
  · rw [BitVec.getLsbD_extractLsb', show 8 + (i - 8) = i by omega]
    simp [show i - 8 < 8 by omega]

/-- Two's complement reads back what it wrote, inside the 16-bit range (00_scope.md R13). -/
theorem sext_extensionWord {ext : Int} (h : extInRange ext = true) : sext (extensionWord ext) = ext := by
  simp only [extInRange, Bool.and_eq_true, decide_eq_true_eq] at h
  have hm : (extensionWord ext).getLsbD 15 = decide (32768 ≤ (extensionWord ext).toNat) := by
    have : (extensionWord ext).msb = (extensionWord ext).getLsbD 15 := rfl
    rw [← this, BitVec.msb_eq_decide]
  unfold sext
  rw [hm]
  simp only [extensionWord, BitVec.toNat_ofInt]
  by_cases hn : ext < 0
  · have : (ext % (2 ^ 16 : Nat)).toNat = (ext + 65536).toNat := by omega
    rw [this]; simp; omega
  · have : (ext % (2 ^ 16 : Nat)).toNat = ext.toNat := by omega
    rw [this]; simp; omega

/-- A short instruction decodes by its first word alone. -/
theorem decode_short {b0 b1 : Byte} (h : extendedBit (halfOfBytes b0 b1) = false) (rest : List Byte) :
    decode (b0 :: b1 :: rest) = decodeWords (halfOfBytes b0 b1) 0 := by
  simp [decode, h]

/-- A long instruction decodes by its first word and its extension word. -/
theorem decode_long {b0 b1 : Byte} (h : extendedBit (halfOfBytes b0 b1) = true) (b2 b3 : Byte) (rest : List Byte) :
    decode (b0 :: b1 :: b2 :: b3 :: rest) = decodeWords (halfOfBytes b0 b1) (halfOfBytes b2 b3) := by
  simp [decode, h]

end Sys2Proof
end

