-- ==== Sys2Proof/Laws/Memory.lean ====
section
/-! SUPPORT. The laws of memory: a read after a write, and the canonical form every memory operation keeps. -/

namespace Sys2Proof.Machine

open Sys2Proof.Config

@[simp] theorem Memory.readByte_nil (a : Nat) : Memory.readByte [] a = 0 := rfl

theorem Memory.readByte_erase (m : Memory) (a x : Nat) :
    (Memory.erase m a).readByte x = if x = a then 0 else m.readByte x := by
  induction m with
  | nil => simp [Memory.erase]
  | cons c rest ih =>
    obtain ⟨k, v⟩ := c
    simp only [Memory.erase, Memory.readByte]
    split
    · subst k; rw [ih]; split <;> simp_all [eq_comm]
    · simp only [Memory.readByte, ih]; split <;> simp_all

theorem Memory.readByte_insert (m : Memory) (a x : Nat) (v : Byte) (h : ∀ c ∈ m, c.1 ≠ a) :
    (Memory.insert m a v).readByte x = if x = a then v else m.readByte x := by
  induction m with
  | nil => simp [Memory.insert, Memory.readByte, eq_comm]
  | cons c rest ih =>
    obtain ⟨k, w⟩ := c
    have hk : k ≠ a := h (k, w) (by simp)
    have hr := ih (fun c hc => h c (by simp [hc]))
    simp only [Memory.insert]
    split
    · simp [Memory.readByte, eq_comm]
    · simp only [Memory.readByte, hr]; split <;> simp_all

theorem Memory.erase_ne (m : Memory) (a : Nat) : ∀ c ∈ Memory.erase m a, c.1 ≠ a := by
  induction m with
  | nil => simp [Memory.erase]
  | cons c rest ih =>
    obtain ⟨k, v⟩ := c
    simp only [Memory.erase]
    split
    · exact ih
    · intro c hc
      rcases List.mem_cons.mp hc with rfl | hc
      · assumption
      · exact ih c hc

/-- A byte read after a byte write, at every address. -/
theorem Memory.readByte_writeByte (m : Memory) (a x : Nat) (v : Byte) :
    (m.writeByte a v).readByte x = if x = a then v else m.readByte x := by
  unfold Memory.writeByte
  split
  · subst v; exact Memory.readByte_erase m a x
  · rw [Memory.readByte_insert _ _ _ _ (Memory.erase_ne m a), Memory.readByte_erase]; split <;> simp_all

theorem Memory.wfFrom_mono {lo lo' : Nat} (h : lo' ≤ lo) : ∀ {m : Memory}, Memory.wfFrom lo m → Memory.wfFrom lo' m
  | [], _ => rfl
  | (k, v) :: rest, hm => by
    simp only [Memory.wfFrom, Bool.and_eq_true, decide_eq_true_eq] at hm ⊢
    exact ⟨⟨⟨by omega, hm.1.1.2⟩, hm.1.2⟩, hm.2⟩

theorem Memory.wfFrom_erase (a : Nat) : ∀ {m : Memory} {lo : Nat}, Memory.wfFrom lo m → Memory.wfFrom lo (Memory.erase m a)
  | [], _, _ => rfl
  | (k, v) :: rest, lo, hm => by
    simp only [Memory.wfFrom, Bool.and_eq_true, decide_eq_true_eq] at hm
    simp only [Memory.erase]
    split
    · exact Memory.wfFrom_erase a (Memory.wfFrom_mono (by omega) hm.2)
    · simp only [Memory.wfFrom, Bool.and_eq_true, decide_eq_true_eq]
      exact ⟨hm.1, Memory.wfFrom_erase a hm.2⟩

theorem Memory.wfFrom_insert {a : Nat} {v : Byte} (ha : a < memSize) (hv : v ≠ 0) :
    ∀ {m : Memory} {lo : Nat}, Memory.wfFrom lo m → lo ≤ a → (∀ c ∈ m, c.1 ≠ a) →
      Memory.wfFrom lo (Memory.insert m a v)
  | [], lo, _, hlo, _ => by simp [Memory.insert, Memory.wfFrom, hlo, ha]; exact hv
  | (k, w) :: rest, lo, hm, hlo, hne => by
    have hk : k ≠ a := hne (k, w) (by simp)
    simp only [Memory.wfFrom, Bool.and_eq_true, decide_eq_true_eq] at hm
    simp only [Memory.insert]
    split
    · simp only [Memory.wfFrom, Bool.and_eq_true, decide_eq_true_eq]
      exact ⟨⟨⟨hlo, ha⟩, hv⟩, ⟨⟨by omega, hm.1.1.2⟩, hm.1.2⟩, hm.2⟩
    · simp only [Memory.wfFrom, Bool.and_eq_true, decide_eq_true_eq]
      exact ⟨hm.1, Memory.wfFrom_insert ha hv hm.2 (by omega) (fun c hc => hne c (by simp [hc]))⟩

/-- A byte write inside memory keeps the canonical form. -/
theorem Memory.wf_writeByte {m : Memory} {a : Nat} {v : Byte} (h : m.wf) (ha : a < memSize) : (m.writeByte a v).wf := by
  unfold Memory.writeByte Memory.wf at *
  split
  · exact Memory.wfFrom_erase a h
  · exact Memory.wfFrom_insert ha ‹_› (Memory.wfFrom_erase a h) (Nat.zero_le a) (Memory.erase_ne m a)

/-- `MemWrite` inside memory keeps the canonical form. -/
theorem wf_memWrite : ∀ {n a v : Nat} {m : Memory}, m.wf → a + n ≤ memSize → (memWrite m a n v).wf
  | 0, _, _, _, h, _ => h
  | n + 1, a, v, m, h, hn => by
    rw [memWrite]
    exact wf_memWrite (Memory.wf_writeByte h (by omega)) (by omega)

/-- Storing a byte string inside memory keeps the canonical form. -/
theorem wf_writeBytes : ∀ {bs : List Byte} {a : Nat} {m : Memory}, m.wf → a + bs.length ≤ memSize →
    (writeBytes m a bs).wf
  | [], _, _, h, _ => h
  | b :: bs, a, m, h, hn => by
    rw [writeBytes]
    simp only [List.length_cons] at hn
    exact wf_writeBytes (Memory.wf_writeByte h (by omega)) (by omega)

/-- An image that fits leaves memory in canonical form. -/
theorem wf_loadImage {image : List Byte} (h : image.length ≤ memSize) : (loadImage image).wf :=
  wf_writeBytes rfl (by omega)

/-- What every byte is after a write of `n` bytes (00_scope.md R14). -/
theorem Memory.readByte_memWrite : ∀ (n : Nat) (m : Memory) (a v x : Nat),
    (memWrite m a n v).readByte x =
      if a ≤ x ∧ x < a + n then BitVec.ofNat 8 (v / 256 ^ (x - a)) else m.readByte x
  | 0, m, a, v, x => by simp [memWrite]
  | n + 1, m, a, v, x => by
    rw [memWrite, Memory.readByte_memWrite n, Memory.readByte_writeByte]
    by_cases hx : x = a
    · subst hx; simp
    · by_cases h : a + 1 ≤ x ∧ x < a + 1 + n
      · rw [if_pos h, if_pos (by omega), Nat.div_div_eq_div_mul, ← Nat.pow_succ', show (x - (a + 1)).succ = x - a by omega]
      · rw [if_neg h, if_neg hx, if_neg (by omega)]

/-- What every byte is after a byte string is stored. -/
theorem Memory.readByte_writeBytes : ∀ (bs : List Byte) (m : Memory) (a x : Nat),
    (writeBytes m a bs).readByte x = if h : a ≤ x ∧ x < a + bs.length then bs[x - a] else m.readByte x
  | [], m, a, x => by simp [writeBytes]
  | b :: bs, m, a, x => by
    rw [writeBytes, Memory.readByte_writeBytes bs, Memory.readByte_writeByte]
    simp only [List.length_cons]
    by_cases hx : x = a
    · subst hx; simp
    · by_cases h : a + 1 ≤ x ∧ x < a + 1 + bs.length
      · rw [dif_pos h, dif_pos (by omega), List.getElem_cons, dif_neg (by omega)]
        congr 1
      · rw [dif_neg h, if_neg hx, dif_neg (by omega)]

/-- An access is in range exactly as 20_memory.md R46 says. -/
theorem inRange_iff (a : Int) (n : Nat) : inRange a n = true ↔ 0 ≤ a ∧ a + n ≤ 1048576 := by
  simp [inRange]

/-- Placing an instruction for the fetch keeps the canonical form. -/
theorem wf_placeAt {m : Memory} (pc : Int) (w : Nat) (h : m.wf) : (placeAt m pc w).wf := by
  unfold placeAt
  split
  · rename_i h4; rw [inRange_iff] at h4; exact wf_writeBytes h (by simp only [bytesOfNat, List.length_cons, List.length_nil, memSize]; omega)
  · split
    · rename_i h2; rw [inRange_iff] at h2; exact wf_writeBytes h (by simp only [bytesOfNat, List.take, List.length_cons, List.length_nil, memSize]; omega)
    · exact h

end Sys2Proof.Machine
end

