-- ==== Sys2Proof/Laws/State.lean ====
section
/-! SUPPORT. What each update of the state does to each field: no later proof unfolds a record update. -/

namespace Sys2Proof.Machine

theorem State.reg_setReg (s : State) (i j : RegIdx) (v : Word) :
    (s.setReg i v).reg j = if j = i then v else s.reg j := by
  unfold State.setReg State.reg
  simp only [Vector.getElem_set, Fin.ext_iff, eq_comm]

@[simp] theorem State.reg_setReg_same (s : State) (i : RegIdx) (v : Word) : (s.setReg i v).reg i = v := by
  simp [State.reg_setReg]

theorem State.reg_setReg_other (s : State) {i j : RegIdx} (v : Word) (h : j ≠ i) :
    (s.setReg i v).reg j = s.reg j := by
  simp [State.reg_setReg, h]

@[simp] theorem State.setReg_pc (s : State) (i : RegIdx) (v : Word) : (s.setReg i v).pc = s.pc := rfl
@[simp] theorem State.setReg_sl (s : State) (i : RegIdx) (v : Word) : (s.setReg i v).sl = s.sl := rfl
@[simp] theorem State.setReg_run (s : State) (i : RegIdx) (v : Word) : (s.setReg i v).run = s.run := rfl
@[simp] theorem State.setReg_tcause (s : State) (i : RegIdx) (v : Word) : (s.setReg i v).tcause = s.tcause := rfl
@[simp] theorem State.setReg_tinfo (s : State) (i : RegIdx) (v : Word) : (s.setReg i v).tinfo = s.tinfo := rfl
@[simp] theorem State.setReg_mem (s : State) (i : RegIdx) (v : Word) : (s.setReg i v).mem = s.mem := rfl
@[simp] theorem State.setReg_params (s : State) (i : RegIdx) (v : Word) : (s.setReg i v).params = s.params := rfl

@[simp] theorem State.setMem_reg (s : State) (m : Memory) (i : RegIdx) : (s.setMem m).reg i = s.reg i := rfl
@[simp] theorem State.setMem_pc (s : State) (m : Memory) : (s.setMem m).pc = s.pc := rfl
@[simp] theorem State.setMem_sl (s : State) (m : Memory) : (s.setMem m).sl = s.sl := rfl
@[simp] theorem State.setMem_run (s : State) (m : Memory) : (s.setMem m).run = s.run := rfl
@[simp] theorem State.setMem_tcause (s : State) (m : Memory) : (s.setMem m).tcause = s.tcause := rfl
@[simp] theorem State.setMem_tinfo (s : State) (m : Memory) : (s.setMem m).tinfo = s.tinfo := rfl
@[simp] theorem State.setMem_mem (s : State) (m : Memory) : (s.setMem m).mem = m := rfl
@[simp] theorem State.setMem_params (s : State) (m : Memory) : (s.setMem m).params = s.params := rfl

@[simp] theorem advance_reg (e r : Bool) (s : State) (i : RegIdx) : (advance e r s).reg i = s.reg i := rfl
@[simp] theorem advance_pc (e r : Bool) (s : State) : (advance e r s).pc = s.pc + trackLength e r s.sl := rfl
@[simp] theorem advance_sl (e r : Bool) (s : State) : (advance e r s).sl = trackLength e r s.sl := rfl
@[simp] theorem advance_run (e r : Bool) (s : State) : (advance e r s).run = s.run := rfl
@[simp] theorem advance_tcause (e r : Bool) (s : State) : (advance e r s).tcause = s.tcause := rfl
@[simp] theorem advance_tinfo (e r : Bool) (s : State) : (advance e r s).tinfo = s.tinfo := rfl
@[simp] theorem advance_mem (e r : Bool) (s : State) : (advance e r s).mem = s.mem := rfl
@[simp] theorem advance_params (e r : Bool) (s : State) : (advance e r s).params = s.params := rfl

/-- Taking a branch changes `pc` and `sl` alone; the other field lemmas of `takeBranch` come from this one. -/
theorem takeBranch_eq (ext : Int) (r : Bool) (s : State) :
    takeBranch ext r s = { s with pc := (takeBranch ext r s).pc, sl := (takeBranch ext r s).sl } := by
  unfold takeBranch; split <;> rfl

@[simp] theorem takeBranch_reg (ext : Int) (r : Bool) (s : State) (i : RegIdx) :
    (takeBranch ext r s).reg i = s.reg i := by rw [takeBranch_eq]; rfl
@[simp] theorem takeBranch_run (ext : Int) (r : Bool) (s : State) : (takeBranch ext r s).run = s.run := by
  rw [takeBranch_eq]
@[simp] theorem takeBranch_tcause (ext : Int) (r : Bool) (s : State) : (takeBranch ext r s).tcause = s.tcause := by
  rw [takeBranch_eq]
@[simp] theorem takeBranch_tinfo (ext : Int) (r : Bool) (s : State) : (takeBranch ext r s).tinfo = s.tinfo := by
  rw [takeBranch_eq]
@[simp] theorem takeBranch_mem (ext : Int) (r : Bool) (s : State) : (takeBranch ext r s).mem = s.mem := by
  rw [takeBranch_eq]
@[simp] theorem takeBranch_params (ext : Int) (r : Bool) (s : State) : (takeBranch ext r s).params = s.params := by
  rw [takeBranch_eq]

@[simp] theorem halt_reg (s : State) (i : RegIdx) : (halt s).reg i = s.reg i := rfl
@[simp] theorem halt_pc (s : State) : (halt s).pc = s.pc := rfl
@[simp] theorem halt_sl (s : State) : (halt s).sl = s.sl := rfl
@[simp] theorem halt_run (s : State) : (halt s).run = .halted := rfl
@[simp] theorem halt_tcause (s : State) : (halt s).tcause = s.tcause := rfl
@[simp] theorem halt_tinfo (s : State) : (halt s).tinfo = s.tinfo := rfl
@[simp] theorem halt_mem (s : State) : (halt s).mem = s.mem := rfl
@[simp] theorem halt_params (s : State) : (halt s).params = s.params := rfl

@[simp] theorem raise_reg (c : TrapCause) (x : Int) (s : State) (i : RegIdx) : (raise c x s).reg i = s.reg i := rfl
@[simp] theorem raise_pc (c : TrapCause) (x : Int) (s : State) : (raise c x s).pc = s.pc := rfl
@[simp] theorem raise_sl (c : TrapCause) (x : Int) (s : State) : (raise c x s).sl = s.sl := rfl
@[simp] theorem raise_run (c : TrapCause) (x : Int) (s : State) : (raise c x s).run = .trapped := rfl
@[simp] theorem raise_tcause (c : TrapCause) (x : Int) (s : State) : (raise c x s).tcause = trapCode c := rfl
@[simp] theorem raise_tinfo (c : TrapCause) (x : Int) (s : State) : (raise c x s).tinfo = BitVec.ofInt 32 x := rfl
@[simp] theorem raise_mem (c : TrapCause) (x : Int) (s : State) : (raise c x s).mem = s.mem := rfl
@[simp] theorem raise_params (c : TrapCause) (x : Int) (s : State) : (raise c x s).params = s.params := rfl

end Sys2Proof.Machine
end

