-- ==== Sys2Proof/Laws/Step.lean ====
section
/-! SUPPORT. What the shared operations, `exec` and `step` can do, each said once. -/

namespace Sys2Proof.Machine

open Sys2Proof.Config

/-- The tracked advance meets the cursor rule. -/
theorem advance_advanced (e r : Bool) (s : State) : Advanced e r s (advance e r s) := ⟨rfl, rfl⟩

/-- A taken branch meets the cursor rule of its parameter. -/
theorem takeBranch_branched (ext : Int) (r : Bool) (s : State) : Branched ext r s (takeBranch ext r s) := by
  unfold Branched takeBranch trackLength
  cases s.params.branchResidual <;> simp [Int.add_assoc]

/-- A trap writes the report and nothing else. -/
theorem raise_trapTaken (c : TrapCause) (x : Int) (s : State) : TrapTaken (trapCode c) x s (raise c x s) := by
  refine ⟨rfl, rfl, ?_, rfl, rfl, rfl, rfl, rfl⟩
  rw [raise_tinfo, BitVec.toNat_ofInt]; omega

/-- What the exchange of MSWP leaves in the registers. -/
theorem swapWord_reg (a : RegIdx) (ea : Nat) (s : State) (c : RegIdx) :
    (swapWord a ea s).reg c = if c = a then BitVec.ofNat 32 (memRead s.mem ea 4) else s.reg c := by
  simp [swapWord, State.reg_setReg]

@[simp] theorem swapWord_mem (a : RegIdx) (ea : Nat) (s : State) :
    (swapWord a ea s).mem = memWrite s.mem ea 4 (s.reg a).toNat := rfl
@[simp] theorem swapWord_pc (a : RegIdx) (ea : Nat) (s : State) : (swapWord a ea s).pc = s.pc := rfl
@[simp] theorem swapWord_sl (a : RegIdx) (ea : Nat) (s : State) : (swapWord a ea s).sl = s.sl := rfl
@[simp] theorem swapWord_run (a : RegIdx) (ea : Nat) (s : State) : (swapWord a ea s).run = s.run := rfl
@[simp] theorem swapWord_tcause (a : RegIdx) (ea : Nat) (s : State) : (swapWord a ea s).tcause = s.tcause := rfl
@[simp] theorem swapWord_tinfo (a : RegIdx) (ea : Nat) (s : State) : (swapWord a ea s).tinfo = s.tinfo := rfl
@[simp] theorem swapWord_params (a : RegIdx) (ea : Nat) (s : State) : (swapWord a ea s).params = s.params := rfl

/-- The two outcomes of MSWP (44_memory_swap.md R170, R171). -/
theorem execMswp_cases (a b : RegIdx) (ext : Int) (r : Bool) (s : State) :
    (inRange (effectiveAddress b ext s) 4 = true ∧
      execMswp a b ext r s = .next (advance true r (swapWord a (effectiveAddress b ext s).toNat s))) ∨
    (inRange (effectiveAddress b ext s) 4 = false ∧
      execMswp a b ext r s = .next (raise .dataOutOfRange (effectiveAddress b ext s) s)) := by
  unfold execMswp
  cases h : inRange (effectiveAddress b ext s) 4
  · exact .inr ⟨rfl, rfl⟩
  · exact .inl ⟨rfl, rfl⟩

/-- The outcome of a branch instruction: taken or not, it runs on. -/
theorem branchIf_eq (taken : Bool) (ext : Int) (r : Bool) (s : State) :
    branchIf taken ext r s = .next (if taken then takeBranch ext r s else advance true r s) := rfl

/-- What a step can be: nothing when stopped, a fetch trap, the treatment of an unassigned opcode, or the meaning of the
decoded instruction (40_cycle.md R100, R101, R103, R105, R113). -/
theorem step_cases {s t : State} (h : step s = .next t) :
    (s.run ≠ .running ∧ t = s) ∨
    (s.run = .running ∧ ∃ a, fetch s = .error a ∧ t = raise .fetchOutOfRange a s) ∨
    (s.run = .running ∧ ∃ bytes e, fetch s = .ok bytes ∧ decode bytes = .error e ∧
      t = unassigned (firstWord s.mem s.pc.toNat) s) ∨
    (s.run = .running ∧ ∃ bytes i, fetch s = .ok bytes ∧ decode bytes = .ok i ∧ exec i s = .next t) := by
  unfold step at h
  cases hr : s.run with
  | halted => rw [hr] at h; injection h with h; exact .inl ⟨by simp, h.symm⟩
  | trapped => rw [hr] at h; injection h with h; exact .inl ⟨by simp, h.symm⟩
  | running =>
    rw [hr] at h
    cases hf : fetch s with
    | error a => rw [hf] at h; injection h with h; exact .inr (.inl ⟨rfl, a, rfl, h.symm⟩)
    | ok bytes =>
      rw [hf] at h
      cases hd : decode bytes with
      | error e =>
        simp only [hd] at h; injection h with h
        exact .inr (.inr (.inl ⟨rfl, bytes, e, rfl, hd, h.symm⟩))
      | ok i => simp only [hd] at h; exact .inr (.inr (.inr ⟨rfl, bytes, i, rfl, hd, h⟩))

/-- When the fetch succeeds it has the bytes the e-bit asks for, all of them in memory (40_cycle.md R101, R103). -/
theorem fetch_ok {s : State} {bytes : List Byte} (h : fetch s = .ok bytes) :
    0 ≤ s.pc ∧ s.pc + 2 ≤ 1048576 ∧
    ((extendedBit (firstWord s.mem s.pc.toNat) = true ∧ s.pc + 4 ≤ 1048576 ∧ bytes = readBytes s.mem s.pc.toNat 4) ∨
     (extendedBit (firstWord s.mem s.pc.toNat) = false ∧ bytes = readBytes s.mem s.pc.toNat 2)) := by
  unfold fetch at h
  split at h
  · rename_i h2; rw [inRange_iff] at h2
    split at h
    · split at h
      · rename_i h4; rw [inRange_iff] at h4; injection h with h
        exact ⟨h2.1, by omega, .inl ⟨‹_›, by omega, h.symm⟩⟩
      · cases h
    · rename_i he; injection h with h
      exact ⟨h2.1, by omega, .inr ⟨by simpa using he, h.symm⟩⟩
  · cases h

/-- When the fetch fails, the failing address is that of the first 2-byte access out of range (40_cycle.md R110). -/
theorem fetch_error {s : State} {a : Int} (h : fetch s = .error a) :
    (¬ (0 ≤ s.pc ∧ s.pc + 2 ≤ 1048576) ∧ a = s.pc) ∨
    (0 ≤ s.pc ∧ s.pc + 2 ≤ 1048576 ∧ extendedBit (firstWord s.mem s.pc.toNat) = true ∧
      ¬ s.pc + 4 ≤ 1048576 ∧ a = s.pc + 2) := by
  unfold fetch at h
  split at h
  · rename_i h2; rw [inRange_iff] at h2
    split at h
    · split at h
      · cases h
      · rename_i h4; rw [inRange_iff] at h4; injection h with h
        exact .inr ⟨h2.1, by omega, ‹_›, by omega, h.symm⟩
    · cases h
  · rename_i h2; rw [inRange_iff] at h2; injection h with h
    exact .inl ⟨by simpa using h2, h.symm⟩

/-- The fetch of a word in memory whose e-bit is clear (40_cycle.md R101). -/
theorem fetch_short {s : State} (h : inRange s.pc 2 = true) (he : extendedBit (firstWord s.mem s.pc.toNat) = false) :
    fetch s = .ok (readBytes s.mem s.pc.toNat 2) := by
  simp [fetch, h, he]

/-- The fetch of a word in memory whose e-bit is set, by whether its extension is in memory (40_cycle.md R103). -/
theorem fetch_long {s : State} (h : inRange s.pc 2 = true) (he : extendedBit (firstWord s.mem s.pc.toNat) = true) :
    fetch s = if inRange (s.pc + 2) 2 then .ok (readBytes s.mem s.pc.toNat 4) else .error (s.pc + 2) := by
  simp [fetch, h, he]

/-- The decoder of fetched bytes reads the words in memory: the first at `pc`, the extension at `pc + 2`. -/
theorem decode_fetched {s : State} {bytes : List Byte} (h : fetch s = .ok bytes) :
    decode bytes = decodeWords (firstWord s.mem s.pc.toNat)
      (if extendedBit (firstWord s.mem s.pc.toNat) then firstWord s.mem (s.pc.toNat + 2) else 0) := by
  rcases (fetch_ok h).2.2 with ⟨he, -, rfl⟩ | ⟨he, rfl⟩
  · rw [he]; exact decode_long he _ _ _
  · rw [he]; exact decode_short he _

/-- A run of `k + 1` steps whose first step answers a next state is the run of `k` steps from it. -/
theorem run_of_step (M : Host.Core) (k : Nat) {s t : M.State} (h : M.step s = .next t) :
    M.run (k + 1) s = M.run k t := by
  simp only [Host.Core.run, h]

/-- The r-bit of a decoded instruction is bit 6 of its first word (30_encoding.md R63). -/
theorem decodeWords_retroOf {w x : Half} {i : Instr} (h : decodeWords w x = .ok i) : retroOf i = retroBit w := by
  unfold decodeWords at h
  simp only [] at h
  split at h <;> first | (injection h with h; subst h; rfl) | cases h

end Sys2Proof.Machine
end

