-- ==== Sys2Proof/Laws/Exec.lean ====
section
/-! SUPPORT. Everything a meaning can do, said once: one inversion lemma of `exec`. -/

namespace Sys2Proof.Machine

/-- What every meaning that does not trap leaves: the trap report and the parameters are kept, `run` is kept or the
instruction is HLT, and the cursor advances or takes the instruction's branch. -/
structure RanOn (i : Instr) (s t : State) : Prop where
  report : KeepsReport s t
  run : t.run = s.run ∨ (t.run = .halted ∧ ∃ r, i = .hlt r)
  cursor : match takenDisplacement s i with
    | none => Advanced (isLong i) (retroOf i) s t
    | some d => Branched d (retroOf i) s t

/-- A branch instruction runs on; `d` is what `takenDisplacement` says of it. -/
theorem branchIf_ranOn {i : Instr} {taken : Bool} {ext : Int} {r : Bool} {s t : State}
    (h : branchIf taken ext r s = .next t) (hl : isLong i = true) (hr : retroOf i = r)
    (hd : takenDisplacement s i = if taken then some ext else none) : RanOn i s t := by
  rw [branchIf_eq] at h
  injection h with h
  subst h
  cases taken
  · refine ⟨⟨rfl, rfl, rfl⟩, .inl rfl, ?_⟩
    rw [hd, hl, hr]; exact advance_advanced _ _ _
  · refine ⟨⟨by simp, by simp, by simp⟩, .inl (by simp), ?_⟩
    rw [hd, hr]; exact takeBranch_branched _ _ _

/-- A meaning answers a next state: MSWP's trap, or a state the instruction ran on to. -/
theorem exec_cases {i : Instr} {s t : State} (h : exec i s = .next t) :
    (∃ a b ext r, i = .mswp a b ext r ∧ inRange (effectiveAddress b ext s) 4 = false ∧
      t = raise .dataOutOfRange (effectiveAddress b ext s) s) ∨ RanOn i s t := by
  cases i with
  | mswp a b ext r =>
    rcases execMswp_cases a b ext r s with ⟨hin, he⟩ | ⟨hout, he⟩
    · rw [exec, he] at h; injection h with h; subst h
      exact .inr ⟨⟨rfl, rfl, rfl⟩, .inl rfl, advance_advanced _ _ _⟩
    · rw [exec, he] at h; injection h with h
      exact .inl ⟨a, b, ext, r, rfl, hout, h.symm⟩
  | hlt r => injection h with h; subst h; exact .inr ⟨⟨rfl, rfl, rfl⟩, .inr ⟨rfl, r, rfl⟩, advance_advanced _ _ _⟩
  | jeq a b ext r => exact .inr (branchIf_ranOn h rfl rfl (by simp [takenDisplacement, condEq]))
  | jne a b ext r => exact .inr (branchIf_ranOn h rfl rfl (by simp [takenDisplacement, condNe]))
  | jlt a b ext r => exact .inr (branchIf_ranOn h rfl rfl (by simp [takenDisplacement, condLt]))
  | jgt a b ext r => exact .inr (branchIf_ranOn h rfl rfl (by simp [takenDisplacement, condGt]))
  | jle a b ext r => exact .inr (branchIf_ranOn h rfl rfl (by simp [takenDisplacement, condLe]))
  | jge a b ext r => exact .inr (branchIf_ranOn h rfl rfl (by simp [takenDisplacement, condGe]))
  | jmp ext r => exact .inr (branchIf_ranOn h rfl rfl rfl)
  | _ => injection h with h; subst h; exact .inr ⟨⟨rfl, rfl, rfl⟩, .inl rfl, advance_advanced _ _ _⟩

/-- A word written at the fetch of an unassigned opcode: what each parameter value does (40_cycle.md R105). -/
theorem unassigned_cases (w : Half) (s : State) :
    (s.params.illegalOpcode = .trap ∧ unassigned w s = raise .illegalOpcode w.toNat s) ∨
    (s.params.illegalOpcode = .nop ∧ unassigned w s = advance (extendedBit w) (retroBit w) s) ∨
    (s.params.illegalOpcode = .halt ∧ unassigned w s = halt (advance (extendedBit w) (retroBit w) s)) := by
  unfold unassigned
  cases s.params.illegalOpcode <;> simp

end Sys2Proof.Machine
end

