-- ==== Sys2Proof/Laws/PerInstr.lean ====
section
/-! SUPPORT. Facts about every instruction as syntax, one lemma per constructor. -/

namespace Sys2Proof.Laws.EncodedLength

/-- The encoder writes as many bytes as the instruction is long (30_encoding.md R60, R67). -/
def Statement (i : Instr) : Prop := (encode i).length = lengthOf i

theorem nop (r : Bool) : Statement (.nop r) := rfl
theorem add (a b : RegIdx) (r : Bool) : Statement (.add a b r) := rfl
theorem sub (a b : RegIdx) (r : Bool) : Statement (.sub a b r) := rfl
theorem xor (a b : RegIdx) (r : Bool) : Statement (.xor a b r) := rfl
theorem rol (a b : RegIdx) (r : Bool) : Statement (.rol a b r) := rfl
theorem ror (a b : RegIdx) (r : Bool) : Statement (.ror a b r) := rfl
theorem swp (a b : RegIdx) (r : Bool) : Statement (.swp a b r) := rfl
theorem hlt (r : Bool) : Statement (.hlt r) := rfl
theorem addi (a : RegIdx) (ext : Int) (r : Bool) : Statement (.addi a ext r) := rfl
theorem subi (a : RegIdx) (ext : Int) (r : Bool) : Statement (.subi a ext r) := rfl
theorem xori (a : RegIdx) (ext : Int) (r : Bool) : Statement (.xori a ext r) := rfl
theorem roli (a : RegIdx) (ext : Int) (r : Bool) : Statement (.roli a ext r) := rfl
theorem rori (a : RegIdx) (ext : Int) (r : Bool) : Statement (.rori a ext r) := rfl
theorem mswp (a b : RegIdx) (ext : Int) (r : Bool) : Statement (.mswp a b ext r) := rfl
theorem jeq (a b : RegIdx) (ext : Int) (r : Bool) : Statement (.jeq a b ext r) := rfl
theorem jne (a b : RegIdx) (ext : Int) (r : Bool) : Statement (.jne a b ext r) := rfl
theorem jlt (a b : RegIdx) (ext : Int) (r : Bool) : Statement (.jlt a b ext r) := rfl
theorem jgt (a b : RegIdx) (ext : Int) (r : Bool) : Statement (.jgt a b ext r) := rfl
theorem jle (a b : RegIdx) (ext : Int) (r : Bool) : Statement (.jle a b ext r) := rfl
theorem jge (a b : RegIdx) (ext : Int) (r : Bool) : Statement (.jge a b ext r) := rfl
theorem jmp (ext : Int) (r : Bool) : Statement (.jmp ext r) := rfl

end Sys2Proof.Laws.EncodedLength
end

