-- ==== Sys2Proof/Tests/Slice0.lean ====
section
/-! SUPPORT. Tests by evaluation. Expected values come from spec/95_test_vectors.md (the vector's id is named) or from the
encoding tables of spec/30_encoding.md; then one witness for each statement that has hypotheses. -/

namespace Sys2Proof.Tests

open Sys2Proof Sys2Proof.Config Sys2Proof.Machine

/-! ### Helpers -/

/-- The vectors' start state: `pc`, `sl`, some registers, and bytes at `pc`; the rest as after reset. -/
def start (pc sl : Int) (regs : List (RegIdx × Word)) (bytes : List Byte) : State :=
  let s := regs.foldl (fun s p => s.setReg p.1 p.2) State.reset
  { s with pc := pc, sl := sl, mem := writeBytes [] pc.toNat bytes }

/-- The same with P_BRANCH_RESIDUAL = transient. -/
def transient (s : State) : State := { s with params := { s.params with branchResidual := .transient } }

/-- The same with another P_ILLEGAL_OPCODE. -/
def illegal (p : IllegalOpcode) (s : State) : State := { s with params := { s.params with illegalOpcode := p } }

/-- The state a step answers, and none for a fault or a refusal. -/
def answered : Host.Outcome State Fault Refusal → Option State
  | .next t => some t
  | .fault _ => none
  | .refused _ => none

/-- What a step leaves in one register and the cursor. -/
def regAfter (c : RegIdx) (s : State) : Option (Word × Int × Int) := (answered (step s)).map fun t => (t.reg c, t.pc, t.sl)

/-- What a step leaves in the control state and the cursor. -/
def runAfter (s : State) : Option (RunState × Int × Int) := (answered (step s)).map fun t => (t.run, t.pc, t.sl)

/-- The trap a step takes: its cause, its information, and the cursor. -/
def trapAfter (s : State) : Option (RunState × BitVec 2 × Word × Int × Int) :=
  (answered (step s)).map fun t => (t.run, t.tcause, t.tinfo, t.pc, t.sl)

/-- The `n` bytes a step leaves in memory from an address on. -/
def bytesAfter (a n : Nat) (s : State) : Option (List Byte) := (answered (step s)).map fun t => readBytes t.mem a n

/-! ### WellFormed refuses an extension value outside [-32768, 32767] (30_encoding.md R64) -/

theorem test_wf_refuses_addi : (Instr.addi 1 32768 false).wellFormed = false := by decide
theorem test_wf_refuses_subi : (Instr.subi 1 (-32769) false).wellFormed = false := by decide
theorem test_wf_refuses_xori : (Instr.xori 1 65535 false).wellFormed = false := by decide
theorem test_wf_refuses_roli : (Instr.roli 1 32768 false).wellFormed = false := by decide
theorem test_wf_refuses_rori : (Instr.rori 1 (-32769) false).wellFormed = false := by decide
theorem test_wf_refuses_mswp : (Instr.mswp 1 2 32768 false).wellFormed = false := by decide
theorem test_wf_refuses_jeq : (Instr.jeq 1 2 (-32769) false).wellFormed = false := by decide
theorem test_wf_refuses_jne : (Instr.jne 1 2 32768 false).wellFormed = false := by decide
theorem test_wf_refuses_jlt : (Instr.jlt 1 2 (-32769) false).wellFormed = false := by decide
theorem test_wf_refuses_jgt : (Instr.jgt 1 2 32768 false).wellFormed = false := by decide
theorem test_wf_refuses_jle : (Instr.jle 1 2 (-32769) false).wellFormed = false := by decide
theorem test_wf_refuses_jge : (Instr.jge 1 2 32768 false).wellFormed = false := by decide
theorem test_wf_refuses_jmp : (Instr.jmp (-32769) true).wellFormed = false := by decide

/-! ### Decoding: one word per constructor, and the rejections -/

theorem test_decode_nop : decode [0x00, 0x37] = .ok (.nop false) := by decide -- V-N4
theorem test_decode_add : decode [0xC1, 0x21] = .ok (.add 1 2 true) := by decide -- V-L19
theorem test_decode_sub : decode [0x02, 0x13] = .ok (.sub 3 1 false) := by decide -- V-A6
theorem test_decode_xor : decode [0x03, 0x44] = .ok (.xor 4 4 false) := by decide -- V-A8
theorem test_decode_rol : decode [0x04, 0x21] = .ok (.rol 1 2 false) := by decide -- V-A9
theorem test_decode_ror : decode [0x05, 0x21] = .ok (.ror 1 2 false) := by decide -- V-A14
theorem test_decode_swp : decode [0x08, 0xF0] = .ok (.swp 0 15 false) := by decide -- V-A19
theorem test_decode_hlt : decode [0x4F, 0x00] = .ok (.hlt true) := by decide -- V-N2
theorem test_decode_addi : decode [0x21, 0xF1, 0x34, 0x12] = .ok (.addi 1 0x1234 false) := by decide -- E-8, V-I6
theorem test_decode_subi : decode [0x22, 0x01, 0x00, 0x80] = .ok (.subi 1 (-32768) false) := by decide -- V-I9
theorem test_decode_xori : decode [0x23, 0x01, 0xFF, 0xFF] = .ok (.xori 1 (-1) false) := by decide -- V-I10
theorem test_decode_roli : decode [0x24, 0x01, 0x21, 0x00] = .ok (.roli 1 33 false) := by decide -- V-I16
theorem test_decode_rori : decode [0x25, 0x01, 0x1F, 0x00] = .ok (.rori 1 31 false) := by decide -- V-I18
theorem test_decode_mswp : decode [0x69, 0x52, 0xFC, 0xFF] = .ok (.mswp 2 5 (-4) true) := by decide -- E-10, V-M3
theorem test_decode_jeq : decode [0x30, 0x33, 0xF0, 0xFF] = .ok (.jeq 3 3 (-16) false) := by decide -- V-J12
theorem test_decode_jne : decode [0x71, 0x01, 0x04, 0x00] = .ok (.jne 1 0 4 true) := by decide -- V-J2
theorem test_decode_jlt : decode [0x32, 0x21, 0x10, 0x00] = .ok (.jlt 1 2 16 false) := by decide -- V-J5
theorem test_decode_jgt : decode [0x33, 0x21, 0x10, 0x00] = .ok (.jgt 1 2 16 false) := by decide -- V-J3
theorem test_decode_jle : decode [0x34, 0x21, 0x10, 0x00] = .ok (.jle 1 2 16 false) := by decide -- V-J7
theorem test_decode_jge : decode [0x35, 0x21, 0x10, 0x00] = .ok (.jge 1 2 16 false) := by decide -- V-J8
theorem test_decode_jmp : decode [0x36, 0xFF, 0xFF, 0x7F] = .ok (.jmp 32767 false) := by decide -- V-J17, V-J18
theorem test_decode_unassigned : decode [0x7F, 0x00, 0x00, 0x00] = .error (.unassignedOpcode 0x3F) := by decide -- V-L16
theorem test_decode_truncated :
    decode [0x00] = .error .truncatedWord ∧ decode [0x21, 0x0A, 0x05] = .error .truncatedExtension := by decide
theorem test_table_word : decodeTableWord 32 0x12340121 = some (.addi 1 0x1234 false) := by decide -- E-8
theorem test_placed_word_is_fetched : runAfter (State.reset.withFetchWord 16 0x000F) = some (.halted, 2, 2) := by decide -- V-N1

/-! ### One step of each instruction -/

theorem test_step_nop : runAfter (start 4 4 [] [0x40, 0x00]) = some (.running, 6, 2) := by decide -- V-L6
theorem test_step_add : regAfter 1 (start 0 2 [(1, 0xFFFFFFFF), (2, 2)] [0x01, 0x21]) = some (1, 2, 2) := by decide -- V-A1
theorem test_step_sub : regAfter 3 (start 0 2 [(1, 0xFFFEDCBF)] [0x02, 0x13]) = some (0x00012341, 2, 2) := by decide -- V-A6
theorem test_step_xor :
    regAfter 1 (start 0 2 [(1, 0xF0F0F0F0), (2, 0xFFFF0000)] [0x03, 0x21]) = some (0x0F0FF0F0, 2, 2) := by decide -- V-A7
theorem test_step_rol : regAfter 1 (start 0 2 [(1, 0x80000000), (2, 33)] [0x04, 0x21]) = some (1, 2, 2) := by decide -- V-A11
theorem test_step_ror :
    regAfter 1 (start 0 2 [(1, 0x12345678), (2, 4)] [0x05, 0x21]) = some (0x81234567, 2, 2) := by decide -- V-A16
theorem test_step_swp :
    regAfter 1 (start 0 2 [(1, 5), (2, 9)] [0x08, 0x21]) = some (9, 2, 2) ∧
      regAfter 2 (start 0 2 [(1, 5), (2, 9)] [0x08, 0x21]) = some (5, 2, 2) := by decide -- V-A17
theorem test_step_hlt : runAfter (start 16 8 [] [0x4F, 0x00]) = some (.halted, 22, 6) := by decide -- V-N3
theorem test_step_addi : regAfter 1 (start 4 4 [] [0x61, 0x01, 0x05, 0x00]) = some (5, 8, 4) := by decide -- V-I19
theorem test_step_subi : regAfter 1 (start 0 2 [(1, 5)] [0x22, 0x01, 0xFF, 0xFF]) = some (6, 4, 4) := by decide -- V-I8
theorem test_step_xori :
    regAfter 1 (start 0 2 [(1, 0x00012340)] [0x23, 0x01, 0xFF, 0xFF]) = some (0xFFFEDCBF, 4, 4) := by decide -- V-I10
theorem test_step_roli : regAfter 1 (start 0 2 [(1, 2)] [0x24, 0x01, 0xFF, 0xFF]) = some (1, 4, 4) := by decide -- V-I15
theorem test_step_rori : regAfter 1 (start 0 2 [(1, 0x80000001)] [0x25, 0x01, 0x1F, 0x00]) = some (3, 4, 4) := by decide -- V-I18
/-- V-M10: MSWP over its own bytes. -/
theorem test_step_mswp :
    regAfter 1 (start 8 4 [(1, 0xFF), (2, 8)] [0x69, 0x21, 0x00, 0x00]) = some (0x00002169, 12, 4) ∧
      bytesAfter 8 4 (start 8 4 [(1, 0xFF), (2, 8)] [0x69, 0x21, 0x00, 0x00]) = some [0xFF, 0x00, 0x00, 0x00] := by decide
/-- V-J12, V-J1. -/
theorem test_step_jeq :
    runAfter (start 0x40 2 [(3, 123)] [0x30, 0x33, 0xF0, 0xFF]) = some (.running, 0x34, -12) ∧
      runAfter (start 4 4 [(1, 2)] [0x70, 0x01, 0x04, 0x00]) = some (.running, 8, 4) := by decide
/-- V-J2 under both parameters, V-J11. -/
theorem test_step_jne :
    runAfter (start 8 4 [(1, 2)] [0x71, 0x01, 0x04, 0x00]) = some (.running, 16, 8) ∧
      runAfter (transient (start 8 4 [(1, 2)] [0x71, 0x01, 0x04, 0x00])) = some (.running, 16, 4) ∧
      runAfter (start 0 2 [(7, 5)] [0x31, 0x77, 0x10, 0x00]) = some (.running, 4, 4) := by decide
/-- V-J6, V-J5: the comparison is unsigned. -/
theorem test_step_jlt :
    runAfter (start 0 2 [(1, 1), (2, 0x80000000)] [0x32, 0x21, 0x10, 0x00]) = some (.running, 20, 20) ∧
      runAfter (start 0 2 [(1, 0xFFFFFFFF)] [0x32, 0x21, 0x10, 0x00]) = some (.running, 4, 4) := by decide
/-- V-J10; equal operands are not above. -/
theorem test_step_jgt :
    runAfter (start 0 2 [(1, 0x80000000), (2, 1)] [0x33, 0x21, 0x10, 0x00]) = some (.running, 20, 20) ∧
      runAfter (start 0 2 [(1, 3), (2, 3)] [0x33, 0x21, 0x10, 0x00]) = some (.running, 4, 4) := by decide
/-- V-J7; a greater first operand is not below or equal. -/
theorem test_step_jle :
    runAfter (start 0 2 [(1, 3), (2, 3)] [0x34, 0x21, 0x10, 0x00]) = some (.running, 20, 20) ∧
      runAfter (start 0 2 [(1, 4), (2, 3)] [0x34, 0x21, 0x10, 0x00]) = some (.running, 4, 4) := by decide
/-- V-J9, V-J8. -/
theorem test_step_jge :
    runAfter (start 0 2 [(1, 0x80000000), (2, 0x7FFFFFFF)] [0x35, 0x21, 0x10, 0x00]) = some (.running, 20, 20) ∧
      runAfter (start 0 2 [(1, 0), (2, 0xFFFFFFFF)] [0x35, 0x21, 0x10, 0x00]) = some (.running, 4, 4) := by decide
/-- V-J19 under both parameters. -/
theorem test_step_jmp :
    runAfter (start 0x10000 2 [] [0x36, 0x00, 0x00, 0x80]) = some (.running, 32772, -32764) ∧
      runAfter (transient (start 0x10000 2 [] [0x36, 0x00, 0x00, 0x80])) = some (.running, 32772, 4) := by decide

/-! ### Witnesses: concrete states and operands that meet the hypotheses of the statement each is named after -/

theorem test_witness_NopOnlyAdvances : ((0x80 : Byte) = 0 ∨ (0x80 : Byte) = 0x80) ∧ ((0 : Byte) = 0 ∨ (0 : Byte) = 0x80) := by
  decide

theorem test_witness_HltHaltsAndAdvances :
    ((0x80 : Byte) = 0 ∨ (0x80 : Byte) = 0x80) ∧ ((0 : Byte) = 0 ∨ (0 : Byte) = 0x80) := by
  decide

/-- V-M5 and V-M6: each side of the `if`, at its boundary. -/
theorem test_witness_MswpExchangesRegisterAndWord :
    (0 ≤ effectiveAddress 2 0 (start 0 2 [(2, 0xFFFFC)] []) ∧
      effectiveAddress 2 0 (start 0 2 [(2, 0xFFFFC)] []) + 4 ≤ 1048576) ∧
    ¬ (0 ≤ effectiveAddress 2 0 (start 0 2 [(2, 0xFFFFD)] []) ∧
      effectiveAddress 2 0 (start 0 2 [(2, 0xFFFFD)] []) + 4 ≤ 1048576) := by decide

theorem test_witness_MswpAddressDoesNotWrap_inside :
    (0 ≤ effectiveAddress 2 (-4) (start 0 2 [(2, 4)] []) ∧ effectiveAddress 2 (-4) (start 0 2 [(2, 4)] []) ≤ 1048572) ∧
    (0 ≤ effectiveAddress 2 4 (start 0 2 [(2, 0xFFFF8)] []) ∧
      effectiveAddress 2 4 (start 0 2 [(2, 0xFFFF8)] []) ≤ 1048572) := by decide

/-- V-M6, V-M4 and the address -1. -/
theorem test_witness_MswpAddressDoesNotWrap_outside :
    ¬ (0 ≤ effectiveAddress 2 (-5) (start 0 2 [(2, 4)] []) ∧ effectiveAddress 2 (-5) (start 0 2 [(2, 4)] []) ≤ 1048572) ∧
    ¬ (0 ≤ effectiveAddress 2 0 (start 0 2 [(2, 0xFFFFD)] []) ∧
      effectiveAddress 2 0 (start 0 2 [(2, 0xFFFFD)] []) ≤ 1048572) ∧
    ¬ (0 ≤ effectiveAddress 2 8 (start 0 2 [(2, 0xFFFFFFFC)] []) ∧
      effectiveAddress 2 8 (start 0 2 [(2, 0xFFFFFFFC)] []) ≤ 1048572) := by decide

/-- ADDI at 0, and NOP in the last two bytes of memory. -/
theorem test_witness_StepRunsTheDecodedInstruction :
    (∃ (s : State) (i : Instr), s = start 0 2 [] [0x21, 0x0A, 0x05, 0x00] ∧ i = .addi 10 5 false ∧ s.run = .running ∧
      0 ≤ s.pc ∧ s.pc + lengthOf i ≤ 1048576 ∧ i.wellFormed = true ∧
      decode (readBytes s.mem s.pc.toNat (lengthOf i)) = .ok i) ∧
    ∃ (s : State) (i : Instr), s = start 1048574 2 [] [0x40, 0x00] ∧ i = .nop true ∧ s.run = .running ∧
      0 ≤ s.pc ∧ s.pc + lengthOf i ≤ 1048576 ∧ i.wellFormed = true ∧
      decode (readBytes s.mem s.pc.toNat (lengthOf i)) = .ok i :=
  ⟨⟨_, _, rfl, rfl, by decide⟩, ⟨_, _, rfl, rfl, by decide⟩⟩

theorem test_witness_StoppedCoreTakesNoStep :
    RunEnded (halt State.reset) ∧ RunEnded (raise .illegalOpcode 0x2106 State.reset) := ⟨.inl rfl, .inr rfl⟩

/-- The first clause at -1 and 1048575, the second at 0 and 1048574. -/
theorem test_witness_FetchOutOfRangeTraps :
    ((start (-1) 2 [] []).run = .running ∧ (start (-1) 2 [] []).pc < 0) ∧
    ((start 1048575 2 [] []).run = .running ∧ 1048576 < (start 1048575 2 [] []).pc + 2) ∧
    ((start 0 2 [] [0x40]).run = .running ∧ 0 ≤ (start 0 2 [] [0x40]).pc ∧ (start 0 2 [] [0x40]).pc + 2 ≤ 1048576 ∧
      extendedBit (firstWord (start 0 2 [] [0x40]).mem 0) = false) ∧
    ((start 1048574 2 [] []).run = .running ∧ 0 ≤ (start 1048574 2 [] []).pc ∧
      (start 1048574 2 [] []).pc + 2 ≤ 1048576 ∧ extendedBit (firstWord (start 1048574 2 [] []).mem 1048574) = false) := by
  decide

/-- V-L8, and the same one byte lower. -/
theorem test_witness_ExtensionFetchOutOfRangeTraps :
    (∃ s : State, s = start 1048574 2 [] [0x21, 0x00] ∧ s.run = .running ∧ 0 ≤ s.pc ∧ s.pc + 2 ≤ 1048576 ∧
      extendedBit (firstWord s.mem s.pc.toNat) = true ∧ 1048576 < s.pc + 4) ∧
    ∃ s : State, s = start 1048573 2 [] [0x21, 0x00] ∧ s.run = .running ∧ 0 ≤ s.pc ∧ s.pc + 2 ≤ 1048576 ∧
      extendedBit (firstWord s.mem s.pc.toNat) = true ∧ 1048576 < s.pc + 4 :=
  ⟨⟨_, rfl, by decide⟩, ⟨_, rfl, by decide⟩⟩

/-- Each branch of the statement in turn: V-L20, V-L15, V-L10, V-M3, V-L1. -/
theorem test_witness_TrapsFollowPhaseOrder :
    (start (-2) 2 [] []).run = .running ∧
    trapAfter (start (-2) 2 [] []) = some (.trapped, 1, 0xFFFFFFFE, -2, 2) ∧
    trapAfter (start 0xFFFFE 2 [] [0x2F, 0x00]) = some (.trapped, 1, 0x00100000, 0xFFFFE, 2) ∧
    trapAfter (start 0 2 [] [0x06, 0x21]) = some (.trapped, 2, 0x00002106, 0, 2) ∧
    trapAfter (start 0 2 [(1, 9), (2, 2)] [0x29, 0x21, 0xFC, 0xFF]) = some (.trapped, 3, 0xFFFFFFFE, 0, 2) ∧
    trapAfter (start 0 2 [] [0x00, 0x00]) = some (.running, 0, 0, 2, 2) :=
  ⟨rfl, by decide, by decide, by decide, by decide, by decide⟩

/-- V-L13, V-L14 and V-L12: the three values of the parameter, e-bit set and clear. -/
theorem test_witness_UnassignedOpcodeFollowsParameter :
    (∃ s : State, s = start 0 2 [] [0x26, 0x00, 0x34, 0x12] ∧ s.params.illegalOpcode = .trap ∧ s.run = .running ∧ 0 ≤ s.pc ∧
      s.pc + 2 ≤ 1048576 ∧ (extendedBit (firstWord s.mem s.pc.toNat) = true → s.pc + 4 ≤ 1048576) ∧
      (firstWord s.mem s.pc.toNat).toNat % 64 ∉ opcodeMap) ∧
    (∃ s : State, s = illegal .nop (start 0 2 [] [0x26, 0x00, 0x34, 0x12]) ∧ s.params.illegalOpcode = .nop ∧
      s.run = .running ∧ 0 ≤ s.pc ∧
      s.pc + 2 ≤ 1048576 ∧ (extendedBit (firstWord s.mem s.pc.toNat) = true → s.pc + 4 ≤ 1048576) ∧
      (firstWord s.mem s.pc.toNat).toNat % 64 ∉ opcodeMap) ∧
    ∃ s : State, s = illegal .halt (start 0 2 [] [0x06, 0x21]) ∧ s.params.illegalOpcode = .halt ∧ s.run = .running ∧
      0 ≤ s.pc ∧
      s.pc + 2 ≤ 1048576 ∧ (extendedBit (firstWord s.mem s.pc.toNat) = true → s.pc + 4 ≤ 1048576) ∧
      (firstWord s.mem s.pc.toNat).toNat % 64 ∉ opcodeMap :=
  ⟨⟨_, rfl, by decide⟩, ⟨_, rfl, by decide⟩, ⟨_, rfl, by decide⟩⟩

/-- V-N1, V-L12 and V-L1: HLT, an unassigned opcode under halt, and an instruction that does not halt. -/
theorem test_witness_OnlyHltOrIllegalOpcodeHalts :
    (start 0 2 [] [0x0F, 0x00]).run = .running ∧
    runAfter (start 0 2 [] [0x0F, 0x00]) = some (.halted, 2, 2) ∧
    runAfter (illegal .halt (start 0 2 [] [0x06, 0x21])) = some (.halted, 2, 2) ∧
    runAfter (start 0 2 [] [0x00, 0x00]) = some (.running, 2, 2) := by decide

theorem test_witness_StepKeepsParameters : ∃ t : State, step (transient (start 0 2 [] [0x36, 0x00, 0x04, 0x00])) = .next t :=
  ⟨_, rfl⟩

theorem test_witness_OnlyWrittenRegistersChange : ∃ t : State, exec (.swp 1 2 false) (start 0 2 [(1, 5), (2, 9)] []) = .next t :=
  ⟨_, rfl⟩

/-- ADD x1, x2 in two states that differ in x3, which it does not read. -/
theorem test_witness_OnlyReadRegistersMatter :
    ∃ s s' t t' : State, s = start 0 2 [(1, 5), (2, 7)] [] ∧ s' = s.setReg 3 1 ∧
      (∀ c : RegIdx, c ∈ readRegs (.add 1 2 false) → s'.reg c = s.reg c) ∧
      observe s' = { observe s with regs := s'.regs } ∧ s'.params = s.params ∧
      exec (.add 1 2 false) s = .next t ∧ exec (.add 1 2 false) s' = .next t' :=
  ⟨_, _, _, _, rfl, rfl, by decide, rfl, rfl, rfl, rfl⟩

/-- V-M1, at the first and the last of the four bytes. -/
theorem test_witness_OnlyMswpChangesMemory :
    ∃ s t : State, s = start 0 2 [(1, 0xFFFFFFFF), (5, 0x100)] [0x29, 0x51, 0x04, 0x00] ∧ step s = .next t ∧
      t.mem.readByte 0x104 ≠ s.mem.readByte 0x104 ∧ t.mem.readByte 0x107 ≠ s.mem.readByte 0x107 :=
  ⟨_, _, rfl, rfl, by decide, by decide⟩

theorem test_witness_OnlyMswpReadsDataMemory : opcodeOf (.hlt true) ≠ 0x29 ∧ opcodeOf (.jmp 4 false) ≠ 0x29 := by decide

/-- MSWP of x1 at `ea`, then `pc` at `p`. -/
def storedThenAt (v : Word) (ea p : Nat) : Option State :=
  (answered (exec (.mswp 1 2 0 false) (start 0 2 [(1, v), (2, BitVec.ofNat 32 ea)] []))).map fun t => { t with pc := p }

/-- The effective address at both ends of memory, and the states `u` at it and 2 bytes further: e-bit clear and set, and the
extension fetch just inside and just outside memory. -/
theorem test_witness_StoredBytesAreFetchedNext :
    (effectiveAddress 2 0 (start 0 2 [(2, 0)] []) = 0 ∧ effectiveAddress 2 0 (start 0 2 [(2, 0xFFFFC)] []) + 4 = 1048576) ∧
    (storedThenAt 0x00050A21 0 0).map fetch = some (.ok [0x21, 0x0A, 0x05, 0x00]) ∧
    (storedThenAt 0x000F2101 0xFFFFC 0xFFFFC).map fetch = some (.ok [0x01, 0x21]) ∧
    (storedThenAt 0x000F2101 0xFFFFC 0xFFFFE).map fetch = some (.ok [0x0F, 0x00]) ∧
    (storedThenAt 0x0A212101 0xFFFFA 0xFFFFC).map fetch = some (.ok [0x21, 0x0A, 0x00, 0x00]) ∧
    (storedThenAt 0x0A212101 0xFFFFC 0xFFFFE).map fetch = some (.error 0x100000) :=
  ⟨⟨by decide, by decide⟩, by decide, by decide, by decide, by decide, by decide⟩

/-- An access that ends at the end of memory, with a written byte in it and a byte outside. -/
theorem test_witness_MemReadWriteAreLittleEndian :
    1048572 + 4 ≤ 1048576 ∧ 3 < 4 ∧ ¬ (1048572 ≤ 1048571 ∧ 1048571 < 1048572 + 4) ∧
      memRead (memWrite [] 1048572 4 0xA1B2C3D4) 1048572 4 = 0xA1B2C3D4 := by decide

/-- E-6 at both ends of the range of amounts. -/
theorem test_witness_RotatesAreCircularShifts :
    0 < 32 ∧ 31 < 32 ∧ rotl 0x12345678 0 = 0x12345678 ∧ rotl 0x12345678 31 = 0x091A2B3C ∧ rotr 0x12345678 31 = 0x2468ACF0 := by
  decide

/-- Two opcode bytes that differ above bit 5. -/
theorem test_witness_OpcodeAloneSelectsInstruction :
    (0x01 : Byte).toNat % 64 = (0xC1 : Byte).toNat % 64 ∧ decode [0x01, 0x21, 0, 0] = .ok (.add 1 2 false) ∧
      decode [0xC1, 0x21, 0, 0] = .ok (.add 1 2 true) := by decide

theorem test_witness_FortyThreeOpcodesAreUnassigned : 0 < 64 ∧ 63 < 64 ∧ 63 ∈ unassignedOpcodes ∧ 0 ∉ unassignedOpcodes := by
  decide

/-- The second clause with JMP, the third with ADDI. -/
theorem test_witness_IgnoredBitsHaveNoEffect :
    (0x36 : Byte).toNat % 64 ∈ [0x00, 0x0F, 0x36] ∧
      ((0x21 : Byte).toNat % 64 ∈ [0x21, 0x22, 0x23, 0x24, 0x25] ∧ (0xF1 : Byte).toNat % 16 = (0x01 : Byte).toNat % 16) := by
  decide

/-- A 2-byte instruction with nothing after it, a 4-byte one with more after it, and each with the r-bit flipped. -/
theorem test_witness_LengthFollowsExtendedBit :
    decode [0x01, 0x21] = .ok (.add 1 2 false) ∧ decode [0x01 ^^^ 0x40, 0x21] = .ok (.add 1 2 true) ∧
    decode [0x61, 0x01, 5, 0, 9] = .ok (.addi 1 5 true) ∧ decode [0x61 ^^^ 0x40, 0x01, 5, 0, 9] = .ok (.addi 1 5 false) := by
  decide

/-- MSWP in range at its last address, and out of range on both sides of memory. -/
theorem test_witness_RetroBitOnlyMovesStepLength :
    (retroOf (.mswp 1 2 0 true) = true ∧ (answered (exec (.mswp 1 2 0 true) (start 4 4 [(2, 0xFFFFC)] []))).isSome = true ∧
      0 ≤ effectiveAddress 2 0 (start 4 4 [(2, 0xFFFFC)] []) ∧
      effectiveAddress 2 0 (start 4 4 [(2, 0xFFFFC)] []) + 4 ≤ 1048576) ∧
    ¬ (0 ≤ effectiveAddress 2 0 (start 4 4 [(2, 0xFFFFD)] []) ∧
      effectiveAddress 2 0 (start 4 4 [(2, 0xFFFFD)] []) + 4 ≤ 1048576) ∧
    ¬ (0 ≤ effectiveAddress 2 (-1) (start 4 4 [] []) ∧ effectiveAddress 2 (-1) (start 4 4 [] []) + 4 ≤ 1048576) := by
  decide

/-- The two ends of the extension's range. -/
theorem test_witness_DecodeInvertsEncode :
    (Instr.mswp 15 0 (-32768) true).wellFormed = true ∧ (Instr.addi 15 32767 false).wellFormed = true ∧
      encode (.mswp 15 0 (-32768) true) = [0x69, 0x0F, 0x00, 0x80] := by decide

theorem test_witness_DecodedInstructionsAreWellFormed :
    decode [0x36, 0xFF, 0xFF, 0x7F] = .ok (.jmp 32767 false) ∧ decode [0x36, 0x00, 0x00, 0x80] = .ok (.jmp (-32768) false) := by
  decide

/-- The r-bit rule met after a step of each length: ADD after a 2-byte instruction, JEQ not taken after a 4-byte one. -/
theorem test_witness_StraightLineAdvancesByLength :
    (∃ s t : State, s = start 0 2 [] [] ∧ s.sl = (2 : Nat) ∧ (retroOf (.add 1 2 false) = true ↔ 2 = 4) ∧
      takenDisplacement s (.add 1 2 false) = none ∧ exec (.add 1 2 false) s = .next t ∧ t.run ≠ .trapped) ∧
    ∃ s t : State, s = start 4 4 [(1, 2)] [] ∧ s.sl = (4 : Nat) ∧ (retroOf (.jeq 1 0 4 true) = true ↔ 4 = 4) ∧
      takenDisplacement s (.jeq 1 0 4 true) = none ∧ exec (.jeq 1 0 4 true) s = .next t ∧ t.run ≠ .trapped :=
  ⟨⟨_, _, rfl, rfl, by decide, rfl, rfl, by decide⟩, ⟨_, _, rfl, rfl, by decide, rfl, rfl, by decide⟩⟩

/-- A taken branch after a 4-byte step, and an instruction that is no branch after a 2-byte step. -/
theorem test_witness_ResidualLaw :
    (∃ t : State, (4 = 2 ∨ 4 = 4) ∧ exec (.jne 1 0 4 true) (start 8 4 [(1, 2)] []) = .next t ∧ t.run ≠ .trapped) ∧
    ∃ t : State, (2 = 2 ∨ 2 = 4) ∧ exec (.nop false) (transient (start 8 2 [] [])) = .next t ∧ t.run ≠ .trapped :=
  ⟨⟨_, .inr rfl, rfl, by decide⟩, ⟨_, .inl rfl, rfl, by decide⟩⟩

/-- JMP -4 with the r-bit after a 4-byte step, with residual 4, under each parameter. -/
theorem test_witness_TakenBranchTarget :
    (∃ s : State, s = start 0x20 8 [] [] ∧ s.params.branchResidual = .persist ∧ (4 = 2 ∨ 4 = 4) ∧ s.sl = (4 : Nat) + 4 ∧
      (retroOf (.jmp (-4) true) = true ↔ 4 = 4) ∧ takenDisplacement s (.jmp (-4) true) = some (-4)) ∧
    ∃ s : State, s = transient (start 0x20 8 [] []) ∧ s.params.branchResidual = .transient ∧ (4 = 2 ∨ 4 = 4) ∧
      s.sl = (4 : Nat) + 4 ∧ (retroOf (.jmp (-4) true) = true ↔ 4 = 4) ∧
      takenDisplacement s (.jmp (-4) true) = some (-4) :=
  ⟨⟨_, rfl, rfl, .inr rfl, rfl, by decide, rfl⟩, ⟨_, rfl, rfl, .inr rfl, rfl, by decide, rfl⟩⟩

/-- The largest image; each clause about a byte at its first and last address. -/
theorem test_witness_LaunchLeavesResetValues :
    (List.replicate 1048576 (0x0F : Byte)).length ≤ 1048576 ∧ ([0x0F, 0x00] : List Byte).length ≤ 1048576 ∧
      0 < ([0x0F, 0x00] : List Byte).length ∧ 1 < ([0x0F, 0x00] : List Byte).length ∧ ([0x0F, 0x00] : List Byte).length ≤ 2 := by
  refine ⟨?_, by decide⟩
  rw [List.length_replicate]

theorem test_witness_ResetStateIsEmptyLaunch :
    ([] : List Byte).length ≤ 1048576 ∧ (List.replicate 1048576 (0x0F : Byte)).length ≤ 1048576 := by
  refine ⟨by decide, ?_⟩
  rw [List.length_replicate]

/-- V-R4. -/
theorem test_witness_OversizedImageIsRefused : 1048576 < (List.replicate 1048577 (0 : Byte)).length := by
  rw [List.length_replicate]; decide

/-- A memory that holds a program, and the step of its MSWP (V-M1). -/
theorem test_witness_EveryStepKeepsMemoryCanonical :
    ∃ s t : State, s = start 0 2 [(1, 0xFFFFFFFF), (5, 0x100)] [0x29, 0x51, 0x04, 0x00] ∧ s.mem.wf = true ∧ step s = .next t :=
  ⟨_, _, rfl, by decide, rfl⟩

/-- A running state whose step traps (V-L10), and the trapped state after it. -/
theorem test_witness_EveryStepKeepsTrapReport :
    (∃ s t : State, s = start 0 2 [] [0x06, 0x21] ∧ TrapReportConsistent s ∧ s.run = .running ∧ step s = .next t ∧
      t.run = .trapped) ∧
    TrapReportConsistent (raise .illegalOpcode 0x2106 State.reset) :=
  ⟨⟨_, _, rfl, by unfold TrapReportConsistent; decide, rfl, rfl, rfl⟩, by unfold TrapReportConsistent; decide⟩

/-- The reset state under each parameter, and its step. -/
theorem test_witness_EveryStepKeepsCursorBound :
    (∃ t : State, CursorBounded State.reset ∧ step State.reset = .next t) ∧
    ∃ t : State, CursorBounded (transient State.reset) ∧ step (transient State.reset) = .next t :=
  ⟨⟨_, by simp [CursorBounded, State.reset, defaults, memSize], rfl⟩,
    ⟨_, by simp [CursorBounded, State.reset, transient, memSize], rfl⟩⟩

end Sys2Proof.Tests
end

