-- ==== Sys2Proof/Proofs/MemoryAccess.lean ====
section
/-! PROOF. `MemRead` and `MemWrite` are little-endian (00_scope.md R14): the read as a sum of its bytes, and the read of
bytes that are the base-256 digits of a value. -/

namespace Sys2Proof.Machine

/-- The spec weighs byte `k` by `2 ^ (8k)`, the model by `256 ^ k`. -/
theorem two_pow_eight_mul (k : Nat) : 2 ^ (8 * k) = 256 ^ k := by
  rw [Nat.pow_mul]

theorem memRead_eq_sum (m : Memory) (a n : Nat) :
    memRead m a n = ∑ k ∈ Finset.range n, (m.readByte (a + k)).toNat * 256 ^ k := by
  induction n generalizing a with
  | zero => rfl
  | succ n ih =>
    rw [memRead, ih, Finset.sum_range_succ', Finset.mul_sum, Nat.add_comm]
    congr 1
    · refine Finset.sum_congr rfl fun k _ => ?_
      rw [Nat.add_right_comm a 1 k, Nat.pow_succ', Nat.add_assoc a k 1]
      exact Nat.mul_left_comm _ _ _
    · simp

/-- A read whose bytes are the low digits of `v` gives `v` cut to the length read. -/
theorem memRead_of_bytes {m : Memory} {a n v : Nat}
    (h : ∀ k, k < n → (m.readByte (a + k)).toNat = v / 256 ^ k % 256) : memRead m a n = v % 256 ^ n := by
  induction n generalizing a v with
  | zero => simp [memRead, Nat.mod_one]
  | succ n ih =>
    have low : (m.readByte a).toNat = v % 256 := by simpa using h 0 n.succ_pos
    have high : memRead m (a + 1) n = v / 256 % 256 ^ n := ih fun k hk => by
      rw [Nat.add_assoc, Nat.add_comm 1 k, h (k + 1) (by omega), Nat.pow_succ', Nat.div_div_eq_div_mul]
    rw [memRead, low, high, Nat.pow_succ', Nat.mod_mul]

theorem readByte_memWrite_inside (m : Memory) (a v : Nat) {n k : Nat} (hk : k < n) :
    ((memWrite m a n v).readByte (a + k)).toNat = v / 256 ^ k % 256 := by
  rw [Memory.readByte_memWrite, if_pos (by omega), Nat.add_sub_cancel_left, BitVec.toNat_ofNat]

theorem readByte_memWrite_outside (m : Memory) (v : Nat) {a n x : Nat} (hx : ¬ (a ≤ x ∧ x < a + n)) :
    (memWrite m a n v).readByte x = m.readByte x := by
  rw [Memory.readByte_memWrite, if_neg hx]

/-- Reading back a write gives what the length holds of the value. -/
theorem memRead_memWrite (m : Memory) (a n v : Nat) : memRead (memWrite m a n v) a n = v % 256 ^ n :=
  memRead_of_bytes fun _ hk => readByte_memWrite_inside m a v hk

/-- Settles O37: the bytes of a write are the digits of its value, and a read sums the digits. The bound on `a + n` is not
needed, since the model's memory is total. -/
theorem memReadWriteAreLittleEndian : Obligations.MemReadWriteAreLittleEndian := by
  intro m a n v _
  simp only [two_pow_eight_mul]
  exact ⟨memRead_eq_sum m a n, fun _ hk => readByte_memWrite_inside m a v hk,
    fun _ hx => readByte_memWrite_outside m v hx, memRead_memWrite m a n v⟩

end Sys2Proof.Machine
end

namespace Sys2Proof.Machine

open Sys2Proof.Config

/-! PROOF. The state after the launch sequence (10_state.md R32): what `Load` leaves in memory, what `Reset` leaves in the
registers, and the launch as the two in turn. -/

theorem readByte_loadImage_of_lt {image : List Byte} {a : Nat} (h : a < image.length) :
    (loadImage image).readByte a = image[a] := by
  simp [loadImage, Memory.readByte_writeBytes, h]

theorem readByte_loadImage_of_ge {image : List Byte} {a : Nat} (h : image.length ≤ a) :
    (loadImage image).readByte a = 0 := by
  simp [loadImage, Memory.readByte_writeBytes, h]

@[simp] theorem reg_hostReset (s : State) (c : RegIdx) : (hostReset s).reg c = 0 := by
  simp [State.reg, hostReset]

/-- An image that fits is loaded and the machine reset (70_reset_and_hazards.md R221). -/
theorem launch_of_fits (p : Params) {image : List Byte} (h : image.length ≤ memSize) :
    launch p image = .next (hostReset { State.reset with mem := loadImage image, params := p }) :=
  if_pos h

/-- Settles O51: `Reset` gives every field but memory its reset value, and keeps the memory that `Load` filled. -/
theorem launchLeavesResetValues : Obligations.LaunchLeavesResetValues := by
  intro p image hfits
  exact ⟨_, launch_of_fits p hfits, rfl, rfl, rfl, reg_hostReset _, rfl, rfl,
    fun _ => readByte_loadImage_of_lt, fun _ => readByte_loadImage_of_ge⟩

end Sys2Proof.Machine

namespace Sys2Proof

/-! PROOF. What selects an instruction and what sets its length (30_encoding.md R63, R66, R67): the fields of the first word
read from its two bytes, the row of the opcode map that `decodeWords` takes, and what a decoded byte string must hold. -/

/-! ### The fields of a first word -/

/-- The opcode is in the first byte (30_encoding.md R66). -/
theorem opcodeField_toNat (b0 b1 : Byte) : (opcodeField (halfOfBytes b0 b1)).toNat = b0.toNat % 64 := by
  rw [opcodeField, BitVec.extractLsb'_toNat, halfOfBytes_toNat]
  omega

/-- The e-bit is in the first byte (30_encoding.md R63). -/
theorem extendedBit_halfOfBytes (b0 b1 : Byte) :
    extendedBit (halfOfBytes b0 b1) = decide (b0.toNat / 32 % 2 = 1) := by
  rw [extendedBit_eq, halfOfBytes_toNat]
  congr 2
  omega

/-- The e-bit is the highest bit of the opcode (30_encoding.md R66). -/
theorem extendedBit_eq_opcodeField (w : Half) : extendedBit w = decide (32 ≤ (opcodeField w).toNat) := by
  rw [extendedBit_eq, opcodeField, BitVec.extractLsb'_toNat]
  simp only [Nat.shiftRight_zero, decide_eq_decide]
  omega

/-- The r-bit is no part of the e-bit (30_encoding.md R63). -/
theorem extendedBit_flipRetro (b0 b1 : Byte) :
    extendedBit (halfOfBytes (b0 ^^^ 0x40) b1) = extendedBit (halfOfBytes b0 b1) := by
  rw [extendedBit, extendedBit, halfOfBytes_getLsbD, halfOfBytes_getLsbD]
  simp

/-- The first register field is in the second byte (30_encoding.md R61). -/
theorem reg1Field_halfOfBytes (b0 b1 : Byte) : reg1Field (halfOfBytes b0 b1) = (b1.extractLsb' 0 4).toFin := by
  apply Fin.ext
  simp only [reg1Field, BitVec.val_toFin, BitVec.extractLsb'_toNat, halfOfBytes_toNat]
  omega

/-- The second register field is in the second byte (30_encoding.md R61). -/
theorem reg2Field_halfOfBytes (b0 b1 : Byte) : reg2Field (halfOfBytes b0 b1) = (b1.extractLsb' 4 4).toFin := by
  apply Fin.ext
  simp only [reg2Field, BitVec.val_toFin, BitVec.extractLsb'_toNat, halfOfBytes_toNat, Nat.shiftRight_eq_div_pow]
  omega

/-! ### The row of the opcode map -/

/-- A decoded instruction is that of the row its opcode names (30_encoding.md R73). -/
theorem decodeWords_opcodeOf {w x : Half} {i : Instr} (h : decodeWords w x = .ok i) :
    opcodeOf i = (opcodeField w).toNat := by
  unfold decodeWords at h
  split at h <;> cases h <;> exact Eq.symm ‹_›

theorem opcodeOf_mem_opcodeMap (i : Instr) : opcodeOf i ∈ opcodeMap := by
  cases i <;> simp [opcodeOf, opcodeMap]

/-- The rows with `e = 1` are those of the opcodes from 0x20 on (30_encoding.md R72, R73). -/
theorem isLong_eq_opcodeOf (i : Instr) : isLong i = decide (32 ≤ opcodeOf i) := by
  cases i <;> rfl

/-- An opcode in the map has a row, whatever the other fields hold (30_encoding.md R73): the decoder's last case, the only one
that answers no instruction, is not met. -/
theorem decodeWords_of_mem_opcodeMap {w : Half} (x : Half) (h : (opcodeField w).toNat ∈ opcodeMap) :
    ∃ i, decodeWords w x = .ok i := by
  unfold decodeWords
  split
  case h_22 => simp_all [opcodeMap]
  all_goals exact ⟨_, rfl⟩

theorem decodeWords_ok_iff (w x : Half) : (∃ i, decodeWords w x = .ok i) ↔ (opcodeField w).toNat ∈ opcodeMap :=
  ⟨fun ⟨i, h⟩ => decodeWords_opcodeOf h ▸ opcodeOf_mem_opcodeMap i, decodeWords_of_mem_opcodeMap x⟩

/-- Words that agree on the opcode and the register fields decode to the same instruction, but for the r-bit. -/
theorem decodeWords_clearRetro_congr {w v : Half} (x : Half) (ho : opcodeField w = opcodeField v)
    (ha : reg1Field w = reg1Field v) (hb : reg2Field w = reg2Field v) :
    (decodeWords w x).map clearRetro = (decodeWords v x).map clearRetro := by
  simp only [decodeWords, ho, ha, hb]
  split <;> rfl

/-- A decoded instruction is long when the e-bit of its first word is set (30_encoding.md R67). -/
theorem decodeWords_isLong {w x : Half} {i : Instr} (h : decodeWords w x = .ok i) : isLong i = extendedBit w := by
  rw [isLong_eq_opcodeOf, decodeWords_opcodeOf h, extendedBit_eq_opcodeField]

/-! ### What selects the instruction -/

/-- Four bytes hold every word that the decoder can ask for. -/
theorem decode_four (b0 b1 b2 b3 : Byte) :
    decode [b0, b1, b2, b3] =
      decodeWords (halfOfBytes b0 b1) (if extendedBit (halfOfBytes b0 b1) then halfOfBytes b2 b3 else 0) := by
  cases he : extendedBit (halfOfBytes b0 b1)
  · exact decode_short he _
  · exact decode_long he _ _ _

/-- The first byte acts through its opcode and its r-bit only (30_encoding.md R66, R75). -/
theorem decode_clearRetro_congr {b0 c0 : Byte} (h : b0.toNat % 64 = c0.toNat % 64) (b1 b2 b3 : Byte) :
    (decode [b0, b1, b2, b3]).map clearRetro = (decode [c0, b1, b2, b3]).map clearRetro := by
  have ho : opcodeField (halfOfBytes b0 b1) = opcodeField (halfOfBytes c0 b1) :=
    BitVec.eq_of_toNat_eq (by rw [opcodeField_toNat, opcodeField_toNat, h])
  have he : extendedBit (halfOfBytes b0 b1) = extendedBit (halfOfBytes c0 b1) := by
    rw [extendedBit_eq_opcodeField, ho, ← extendedBit_eq_opcodeField]
  rw [decode_four, decode_four, he]
  exact decodeWords_clearRetro_congr _ ho (by rw [reg1Field_halfOfBytes, reg1Field_halfOfBytes])
    (by rw [reg2Field_halfOfBytes, reg2Field_halfOfBytes])

/-- Settles O41: the decoder takes its row by the opcode field, which is the low 6 bits of the first byte; the register and
extension fields are in the other bytes, so first bytes with one opcode differ in the r-bit at most. -/
theorem opcodeAloneSelectsInstruction : Obligations.OpcodeAloneSelectsInstruction := by
  refine ⟨fun b0 b1 b2 b3 => ?_, fun b0 b1 b2 b3 i h => ?_, fun b0 c0 b1 b2 b3 i j hop hi hj => ?_⟩
  · rw [decode_four, decodeWords_ok_iff, opcodeField_toNat]
  · rw [decode_four] at h
    rw [decodeWords_opcodeOf h, opcodeField_toNat]
  · have same := decode_clearRetro_congr hop b1 b2 b3
    rw [hi, hj] at same
    exact Except.ok.inj same

/-! ### What sets the length -/

/-- A byte string that decodes holds the words its e-bit asks for, and its instruction is that of these words alone
(30_encoding.md R60, R67). -/
theorem decode_ok {b0 b1 : Byte} {rest : List Byte} {i : Instr} (h : decode (b0 :: b1 :: rest) = .ok i) :
    (extendedBit (halfOfBytes b0 b1) = false ∧ decodeWords (halfOfBytes b0 b1) 0 = .ok i) ∨
    (extendedBit (halfOfBytes b0 b1) = true ∧ ∃ (b2 b3 : Byte) (tail : List Byte), rest = b2 :: b3 :: tail ∧
      decodeWords (halfOfBytes b0 b1) (halfOfBytes b2 b3) = .ok i) := by
  cases he : extendedBit (halfOfBytes b0 b1)
  · exact .inl ⟨rfl, decode_short he rest ▸ h⟩
  · match rest with
    | b2 :: b3 :: tail => exact .inr ⟨rfl, b2, b3, tail, rfl, decode_long he b2 b3 tail ▸ h⟩
    | [] | [_] => simp [decode, he] at h

/-- The length of a decoded instruction follows its own e-bit (30_encoding.md R67). -/
theorem decode_lengthOf {b0 b1 : Byte} {rest : List Byte} {i : Instr} (h : decode (b0 :: b1 :: rest) = .ok i) :
    lengthOf i = if extendedBit (halfOfBytes b0 b1) then 4 else 2 := by
  rcases decode_ok h with ⟨-, hw⟩ | ⟨-, _, _, _, -, hw⟩ <;> rw [lengthOf, decodeWords_isLong hw]

theorem lengthOf_le_of_decode {b0 b1 : Byte} {rest : List Byte} {i : Instr} (h : decode (b0 :: b1 :: rest) = .ok i) :
    lengthOf i ≤ (b0 :: b1 :: rest).length := by
  rw [decode_lengthOf h]
  rcases decode_ok h with ⟨he, -⟩ | ⟨he, _, _, _, rfl, -⟩ <;> simp [he]

/-- The decoder looks at no byte after the instruction (30_encoding.md R60). -/
theorem decode_take_append {b0 b1 : Byte} {rest : List Byte} {i : Instr} (h : decode (b0 :: b1 :: rest) = .ok i)
    (more : List Byte) : decode ((b0 :: b1 :: rest).take (lengthOf i) ++ more) = .ok i := by
  rw [decode_lengthOf h]
  rcases decode_ok h with ⟨he, hw⟩ | ⟨he, b2, b3, tail, rfl, hw⟩
  · rw [he]; exact (decode_short he more).trans hw
  · rw [he]; exact (decode_long he b2 b3 more).trans hw

/-- Settles O44: the row of an opcode is long exactly when the opcode's highest bit, the e-bit, is set; flipping the r-bit
leaves the e-bit as it is. -/
theorem lengthFollowsExtendedBit : Obligations.LengthFollowsExtendedBit := by
  intro b0 b1 rest i h
  refine ⟨?_, lengthOf_le_of_decode h, decode_take_append h, fun j hj => ?_⟩
  · rw [decode_lengthOf h, extendedBit_halfOfBytes]
    rcases Nat.mod_two_eq_zero_or_one (b0.toNat / 32) with he | he <;> rw [he] <;> rfl
  · rw [decode_lengthOf h, decode_lengthOf hj, extendedBit_flipRetro]

end Sys2Proof

namespace Sys2Proof.Machine

/-! PROOF. The phases of a step (40_cycle.md R100 to R113), forward: which state it answers when the CORE is stopped, when a
fetch fails, and when the fetched word has no row in the opcode map. -/

/-! ### What a step answers -/

/-- A stopped CORE keeps its state (40_cycle.md R113). -/
theorem step_of_runEnded {s : State} (h : RunEnded s) : step s = .next s := by
  rcases h with halted | trapped
  · simp only [step, halted]
  · simp only [step, trapped]

theorem step_of_fetch_error {s : State} {a : Int} (hrun : s.run = .running) (hf : fetch s = .error a) :
    step s = .next (raise .fetchOutOfRange a s) := by
  simp only [step, hrun, hf]

theorem step_of_decode_error {s : State} {bytes : List Byte} {e : DecodeReject} (hrun : s.run = .running)
    (hf : fetch s = .ok bytes) (hd : decode bytes = .error e) :
    step s = .next (unassigned (firstWord s.mem s.pc.toNat) s) := by
  simp only [step, hrun, hf, hd]

theorem step_of_decode_ok {s : State} {bytes : List Byte} {i : Instr} (hrun : s.run = .running)
    (hf : fetch s = .ok bytes) (hd : decode bytes = .ok i) : step s = exec i s := by
  simp only [step, hrun, hf, hd]

/-- Every meaning answers a next state: only MSWP has two outcomes, and its trap is a state too (60_exceptions.md R200). -/
theorem exec_answers_next (i : Instr) (s : State) : ∃ t : State, exec i s = .next t := by
  cases i with
  | mswp a b ext r => rcases execMswp_cases a b ext r s with ⟨-, he⟩ | ⟨-, he⟩ <;> exact ⟨_, he⟩
  | _ => exact ⟨_, rfl⟩

theorem step_answers_next (s : State) : ∃ t : State, step s = .next t := by
  cases hrun : s.run with
  | halted => exact ⟨s, step_of_runEnded (.inl hrun)⟩
  | trapped => exact ⟨s, step_of_runEnded (.inr hrun)⟩
  | running =>
    cases hf : fetch s with
    | error a => exact ⟨_, step_of_fetch_error hrun hf⟩
    | ok bytes =>
      cases hd : decode bytes with
      | error e => exact ⟨_, step_of_decode_error hrun hf hd⟩
      | ok i => rw [step_of_decode_ok hrun hf hd]; exact exec_answers_next i s

/-! ### A stopped CORE -/

theorem run_of_runEnded {s : State} (h : RunEnded s) (k : Nat) : Host.Core.run core k s = .next s := by
  induction k with
  | zero => rfl
  | succ k ih => exact (run_of_step core k (step_of_runEnded h)).trans ih

/-- Settles O24: one step keeps a stopped state, hence so does any number of them; `Reset` writes `run`. -/
theorem stoppedCoreTakesNoStep : Obligations.StoppedCoreTakesNoStep :=
  fun _ h => ⟨step_of_runEnded h, run_of_runEnded h, rfl⟩

/-! ### The fetch -/

/-- The fetch fails at `pc` itself when the first word is not in memory (40_cycle.md R101). -/
theorem fetch_of_not_inRange {s : State} (h : ¬ (0 ≤ s.pc ∧ s.pc + 2 ≤ 1048576)) : fetch s = .error s.pc :=
  if_neg fun hin => h ((inRange_iff s.pc 2).mp hin)

/-- The fetch succeeds when the bytes the e-bit asks for are in memory (40_cycle.md R101, R103). -/
theorem fetch_of_inRange {s : State} (h0 : 0 ≤ s.pc) (h2 : s.pc + 2 ≤ 1048576)
    (h4 : extendedBit (firstWord s.mem s.pc.toNat) = true → s.pc + 4 ≤ 1048576) :
    ∃ bytes, fetch s = .ok bytes := by
  have first : inRange s.pc 2 = true := (inRange_iff s.pc 2).mpr ⟨h0, h2⟩
  cases he : extendedBit (firstWord s.mem s.pc.toNat) with
  | false => exact ⟨_, fetch_short first he⟩
  | true =>
    have second : inRange (s.pc + 2) 2 = true := by have := h4 he; rw [inRange_iff]; omega
    exact ⟨_, by rw [fetch_long first he, if_pos second]⟩

/-- No treatment of an unassigned opcode is a fetch trap: it traps with cause 2, or runs on, or halts. -/
theorem unassigned_not_fetchTrap (w : Half) {s : State} (hrun : s.run = .running) :
    ¬ ((unassigned w s).run = .trapped ∧ (unassigned w s).tcause = 1) := by
  rcases unassigned_cases w s with ⟨-, he⟩ | ⟨-, he⟩ | ⟨-, he⟩
  · simp [he, trapCode]
  · simp [he, hrun]
  · simp [he]

/-- No meaning of an instruction is a fetch trap: MSWP traps with cause 3, and the others do not trap. -/
theorem exec_not_fetchTrap {i : Instr} {s t : State} (hrun : s.run = .running) (h : exec i s = .next t) :
    ¬ (t.run = .trapped ∧ t.tcause = 1) := by
  rcases exec_cases h with ⟨a, b, ext, r, -, -, rfl⟩ | ran
  · simp [trapCode]
  · rcases ran.run with kept | ⟨halted, -⟩
    · simp [kept, hrun]
    · simp [halted]

/-- A fetch trap comes from the fetch alone: when the fetch succeeds, no later phase takes one (60_exceptions.md R201). -/
theorem step_not_fetchTrap {s t : State} {bytes : List Byte} (hrun : s.run = .running) (hf : fetch s = .ok bytes)
    (h : step s = .next t) : ¬ (t.run = .trapped ∧ t.tcause = 1) := by
  rcases step_cases h with ⟨stopped, -⟩ | ⟨-, a, failed, -⟩ | ⟨-, _, _, -, -, rfl⟩ | ⟨-, _, i, -, -, he⟩
  · exact absurd hrun stopped
  · rw [hf] at failed; cases failed
  · exact unassigned_not_fetchTrap _ hrun
  · exact exec_not_fetchTrap hrun he

/-- Settles O25: outside memory the fetch fails at `pc`; inside it, a first word with a clear e-bit is all the fetch needs,
and no later phase takes a fetch trap. -/
theorem fetchOutOfRangeTraps : Obligations.FetchOutOfRangeTraps := by
  intro s hrun
  refine ⟨fun outside => ?_, fun h0 h2 short => ?_⟩
  · exact ⟨_, step_of_fetch_error hrun (fetch_of_not_inRange (by omega)), raise_trapTaken .fetchOutOfRange s.pc s⟩
  · obtain ⟨bytes, hf⟩ := fetch_of_inRange h0 h2 (by simp [short])
    obtain ⟨t, ht⟩ := step_answers_next s
    exact ⟨t, ht, step_not_fetchTrap hrun hf ht⟩

/-! ### An unassigned opcode -/

/-- The opcode is the low 6 bits of the first word (30_encoding.md R63). -/
theorem opcodeField_eq_mod (w : Half) : (opcodeField w).toNat = w.toNat % 64 := by
  rw [opcodeField, BitVec.extractLsb'_toNat, Nat.shiftRight_zero]

/-- Fetched bytes whose opcode has no row are no instruction (30_encoding.md R74). -/
theorem decode_fetched_error {s : State} {bytes : List Byte} (hf : fetch s = .ok bytes)
    (hopc : (firstWord s.mem s.pc.toNat).toNat % 64 ∉ opcodeMap) : ∃ e, decode bytes = .error e := by
  cases hd : decode bytes with
  | error e => exact ⟨e, rfl⟩
  | ok i =>
    rw [decode_fetched hf] at hd
    rw [← opcodeField_eq_mod] at hopc
    exact absurd ((decodeWords_ok_iff _ _).mp ⟨i, hd⟩) hopc

/-- The tracked advance moves the cursor and nothing else (40_cycle.md R107, R108). -/
theorem advance_frame (e r : Bool) (s : State) :
    KeepsRegsExcept [] s (advance e r s) ∧ KeepsMemory s (advance e r s) ∧ KeepsReport s (advance e r s) ∧
      Advanced e r s (advance e r s) :=
  ⟨fun _ _ => rfl, fun _ => rfl, ⟨rfl, rfl, rfl⟩, advance_advanced e r s⟩

/-- Settles O28: the bytes are fetched and have no row in the map, so the step is the treatment that the parameter selects.
Halting writes `run` alone, so the frame of the advance is also that of the advance and halt. -/
theorem unassignedOpcodeFollowsParameter : Obligations.UnassignedOpcodeFollowsParameter := by
  refine ⟨rfl, fun s hrun h0 h2 h4 hopc => ?_⟩
  obtain ⟨bytes, hf⟩ := fetch_of_inRange h0 h2 h4
  obtain ⟨e, hd⟩ := decode_fetched_error hf hopc
  refine ⟨_, step_of_decode_error hrun hf hd, ?_⟩
  rcases unassigned_cases (firstWord s.mem s.pc.toNat) s with ⟨hp, he⟩ | ⟨hp, he⟩ | ⟨hp, he⟩ <;> rw [hp, he]
  · exact raise_trapTaken .illegalOpcode _ s
  · exact ⟨hrun, advance_frame _ _ s⟩
  · exact ⟨rfl, advance_frame _ _ s⟩

end Sys2Proof.Machine

namespace Sys2Proof

/-! PROOF. The bits that the decoder ignores in a short instruction without operands (30_encoding.md R75): a first byte of an
opcode, an r-bit and any bit 7, and any register byte. -/

/-- Bit 7 alone is outside the opcode and the r-bit (30_encoding.md R63). -/
theorem ignoredBit_fields {z : Byte} (hz : z = 0 ∨ z = 0x80) : z.toNat % 64 = 0 ∧ z.getLsbD 6 = false := by
  rcases hz with rfl | rfl <;> decide

/-- The r-bit is in the first byte (30_encoding.md R63). -/
theorem retroBit_halfOfBytes (b0 b1 : Byte) : retroBit (halfOfBytes b0 b1) = b0.getLsbD 6 := by
  rw [retroBit, halfOfBytes_getLsbD]
  simp

/-- The opcode of a first byte written with plain numbers, whatever its r-bit and bit 7. -/
theorem firstByte_opcode {opc : Nat} {z : Byte} (hopc : opc < 64) (r : Bool) (hz : z = 0 ∨ z = 0x80) :
    (BitVec.ofNat 8 (opc + (if r then 64 else 0)) ||| z).toNat % 64 = opc := by
  rw [BitVec.toNat_or, Nat.or_mod_two_pow (n := 6), (ignoredBit_fields hz).1, BitVec.toNat_ofNat]
  cases r <;> simp <;> omega

/-- The r-bit of a first byte written with plain numbers, whatever its opcode and bit 7. -/
theorem firstByte_retro {opc : Nat} {z : Byte} (hopc : opc < 64) (r : Bool) (hz : z = 0 ∨ z = 0x80) :
    (BitVec.ofNat 8 (opc + (if r then 64 else 0)) ||| z).getLsbD 6 = r := by
  rw [BitVec.getLsbD_or, (ignoredBit_fields hz).2, BitVec.getLsbD_ofNat]
  cases r <;> simp [Nat.testBit_eq_decide_div_mod_eq] <;> omega

/-- The words that decode to NOP (30_encoding.md R73). -/
theorem decodeWords_nop {w : Half} (x : Half) (h : (opcodeField w).toNat = 0x00) :
    decodeWords w x = .ok (.nop (retroBit w)) := by
  simp only [decodeWords, h]

/-- The words that decode to HLT (30_encoding.md R73). -/
theorem decodeWords_hlt {w : Half} (x : Half) (h : (opcodeField w).toNat = 0x0F) :
    decodeWords w x = .ok (.hlt (retroBit w)) := by
  simp only [decodeWords, h]

/-- A short instruction that is decoded from its opcode and its r-bit alone is decoded from every first byte that holds the
two, with any register byte. -/
theorem decode_noOperand {opc : Nat} {mk : Bool → Instr} (hopc : opc < 32)
    (row : ∀ w : Half, (opcodeField w).toNat = opc → decodeWords w 0 = .ok (mk (retroBit w)))
    (r : Bool) {z : Byte} (hz : z = 0 ∨ z = 0x80) (b1 : Byte) :
    decode [BitVec.ofNat 8 (opc + (if r then 64 else 0)) ||| z, b1] = .ok (mk r) := by
  have field : (opcodeField (halfOfBytes (BitVec.ofNat 8 (opc + (if r then 64 else 0)) ||| z) b1)).toNat = opc := by
    rw [opcodeField_toNat, firstByte_opcode (by omega) r hz]
  have short : extendedBit (halfOfBytes (BitVec.ofNat 8 (opc + (if r then 64 else 0)) ||| z) b1) = false := by
    rw [extendedBit_eq_opcodeField, field]
    simpa using hopc
  rw [decode_short short, row _ field, retroBit_halfOfBytes, firstByte_retro (by omega) r hz]

end Sys2Proof

namespace Sys2Proof.Machine

/-! PROOF. The instructions without operands (41_no_operand.md), and the ways into Halted (10_state.md R26). -/

/-! ### NOP and HLT -/

/-- The meaning of NOP (41_no_operand.md R120). -/
theorem exec_nop (r : Bool) (s : State) : exec (.nop r) s = .next (advance false r s) := rfl

/-- The meaning of HLT (41_no_operand.md R121). -/
theorem exec_hlt (r : Bool) (s : State) : exec (.hlt r) s = .next (halt (advance false r s)) := rfl

/-- Settles O1: NOP is the row of opcode 0 and reads no field but the r-bit; its meaning is the tracked advance, with the
frame of it. -/
theorem nopOnlyAdvances : Obligations.NopOnlyAdvances := by
  refine fun r => ⟨fun z b1 hz => decode_noOperand (by decide) (fun w => decodeWords_nop 0) r hz b1, fun s => ?_⟩
  obtain ⟨regs, mem, report, cursor⟩ := advance_frame false r s
  exact ⟨_, exec_nop r s, regs, mem, report, advance_run false r s, cursor⟩

/-- Settles O2: HLT is the row of opcode 0x0F and reads no field but the r-bit; its meaning writes `run`
alone after the tracked advance, so the frame of the advance is its frame too; and a stopped CORE keeps its state. -/
theorem hltHaltsAndAdvances : Obligations.HltHaltsAndAdvances := by
  refine fun r => ⟨fun z b1 hz => decode_noOperand (by decide) (fun w => decodeWords_hlt 0) r hz b1, fun s => ?_⟩
  obtain ⟨regs, mem, report, cursor⟩ := advance_frame false r s
  exact ⟨_, exec_hlt r s, regs, mem, report, halt_run _, cursor, step_of_runEnded (.inl (halt_run _))⟩

/-! ### The ways into Halted -/

/-- An unassigned opcode halts a running CORE under P_ILLEGAL_OPCODE = halt only (40_cycle.md R105). -/
theorem unassigned_run_halted_iff (w : Half) {s : State} (hrun : s.run = .running) :
    (unassigned w s).run = .halted ↔ s.params.illegalOpcode = .halt := by
  rcases unassigned_cases w s with ⟨hp, he⟩ | ⟨hp, he⟩ | ⟨hp, he⟩
  · simp [he, hp]
  · simp [he, hp, hrun]
  · simp [he, hp]

/-- The only instruction that halts a running CORE is HLT (10_state.md R26; 41_no_operand.md R121). -/
theorem exec_run_halted_iff {i : Instr} {s t : State} (hrun : s.run = .running) (h : exec i s = .next t) :
    t.run = .halted ↔ ∃ r, i = .hlt r := by
  constructor
  · intro halted
    rcases exec_cases h with ⟨_, _, _, _, -, -, rfl⟩ | ran
    · simp at halted
    · rcases ran.run with kept | ⟨-, isHlt⟩
      · simp [kept, hrun] at halted
      · exact isHlt
  · rintro ⟨r, rfl⟩
    rw [exec_hlt] at h
    cases h
    exact halt_run _

/-- Settles O30: a fetch trap does not halt and fetched no bytes; fetched bytes are either no instruction, where the
parameter alone decides, or an instruction, where being HLT does. -/
theorem onlyHltOrIllegalOpcodeHalts : Obligations.OnlyHltOrIllegalOpcodeHalts := by
  intro s t hrun h
  rcases step_cases h with ⟨stopped, -⟩ | ⟨-, a, hf, rfl⟩ | ⟨-, bytes, e, hf, hd, rfl⟩ | ⟨-, bytes, i, hf, hd, he⟩
  · exact absurd hrun stopped
  · simp [hf]
  · rw [unassigned_run_halted_iff _ hrun]
    simp [hf, hd]
  · rw [exec_run_halted_iff hrun he]
    simp [hf, hd]

end Sys2Proof.Machine

namespace Sys2Proof.Machine

/-! PROOF. The rotates as circular shifts (42_register_register.md R128): their bits, and the value of a left rotate. -/

/-- A left rotate moves bit `k` up by `n`, modulo 32. -/
theorem getLsbD_rotl (v : Word) {n k : Nat} (hn : n < 32) (hk : k < 32) :
    (rotl v n).getLsbD k = v.getLsbD ((k + 32 - n) % 32) := by
  unfold rotl
  split
  case isTrue zero => congr 1; omega
  case isFalse =>
    rw [BitVec.getLsbD_or, BitVec.getLsbD_shiftLeft, BitVec.getLsbD_ushiftRight]
    by_cases low : k < n
    · rw [show (k + 32 - n) % 32 = 32 - n + k by omega]
      simp [low]
    · rw [show (k + 32 - n) % 32 = k - n by omega, BitVec.getLsbD_of_ge v (32 - n + k) (by omega)]
      simp [low, hk]

/-- A right rotate is the left rotate that completes the circle. -/
theorem rotr_eq_rotl (v : Word) {n : Nat} (hn : n < 32) : rotr v n = rotl v ((32 - n) % 32) := by
  by_cases zero : n = 0
  · rw [zero, rotr, rotl, if_pos rfl, if_pos rfl]
  · rw [Nat.mod_eq_of_lt (by omega), rotr, rotl, if_neg zero, if_neg (by omega), Nat.sub_sub_self hn.le, BitVec.or_comm]

/-- A right rotate moves bit `k` down by `n`, modulo 32. -/
theorem getLsbD_rotr (v : Word) {n k : Nat} (hn : n < 32) (hk : k < 32) :
    (rotr v n).getLsbD k = v.getLsbD ((k + n) % 32) := by
  rw [rotr_eq_rotl v hn, getLsbD_rotl v (by omega) hk]
  congr 1
  omega

/-- The bits that a left rotate shifts out come back at the low end, which the shift has cleared: the two parts add. -/
theorem rotl_toNat (v : Word) {n : Nat} (hn : n < 32) :
    (rotl v n).toNat = v.toNat * 2 ^ n % 4294967296 + v.toNat / 2 ^ (32 - n) := by
  have hv := v.isLt
  have split32 : 2 ^ (32 - n) * 2 ^ n = 2 ^ 32 := by rw [← Nat.pow_add, Nat.sub_add_cancel hn.le]
  have kept : v.toNat * 2 ^ n % 2 ^ 32 = 2 ^ n * (v.toNat % 2 ^ (32 - n)) := by
    rw [← split32, Nat.mul_mod_mul_right, Nat.mul_comm]
  have out : v.toNat / 2 ^ (32 - n) < 2 ^ n := Nat.div_lt_of_lt_mul (by rwa [split32])
  unfold rotl
  split
  case isTrue zero => subst zero; omega
  case isFalse =>
    change _ = v.toNat * 2 ^ n % 2 ^ 32 + _
    rw [BitVec.toNat_or, BitVec.toNat_shiftLeft, BitVec.toNat_ushiftRight, Nat.shiftLeft_eq,
      Nat.shiftRight_eq_div_pow, kept, Nat.two_pow_add_eq_or_of_lt out]

theorem rotr_rotl (v : Word) {n : Nat} (hn : n < 32) : rotr (rotl v n) n = v := by
  refine BitVec.eq_of_getLsbD_eq fun k hk => ?_
  rw [getLsbD_rotr _ hn hk, getLsbD_rotl v hn (by omega)]
  congr 1
  omega

/-- Settles O38: two words with the same bits are equal, so what the rotates do to each bit gives all but the value of a
left rotate, which is the sum of its two parts. -/
theorem rotatesAreCircularShifts : Obligations.RotatesAreCircularShifts := fun v _ hn =>
  ⟨fun _ hk => getLsbD_rotl v hn hk, rotl_toNat v hn, rotr_eq_rotl v hn, rotr_rotl v hn⟩

end Sys2Proof.Machine

namespace Sys2Proof

/-! PROOF. The short instructions with two registers: the bytes that the format tables give are those of the encoder
(30_encoding.md R61, R65), and the rows of the opcode map that read both register fields (R73). -/

/-- The opcode byte written with plain numbers (30_encoding.md R65). -/
theorem opcodeByte_eq_ofNat {opc : Nat} (hopc : opc < 64) (r : Bool) :
    BitVec.ofNat 8 (opc + (if r then 64 else 0)) = opcodeByte (BitVec.ofNat 6 opc) r := by
  apply BitVec.eq_of_toNat_eq
  have low : opc < 2 ^ 6 := hopc
  rw [opcodeByte, BitVec.toNat_append, BitVec.toNat_ofNat, BitVec.toNat_ofNat, Nat.mod_eq_of_lt low,
    Nat.shiftLeft_eq, Nat.mul_comm, ← Nat.two_pow_add_eq_or_of_lt low]
  cases r <;> simp <;> omega

/-- The register byte written with plain numbers (30_encoding.md R61). -/
theorem registerByte_eq_ofNat (a b : RegIdx) : BitVec.ofNat 8 (a.val + 16 * b.val) = registerByte a b := by
  apply BitVec.eq_of_toNat_eq
  have low : a.val < 2 ^ 4 := a.isLt
  rw [registerByte, BitVec.toNat_append, BitVec.toNat_ofNat, BitVec.toNat_ofFin, BitVec.toNat_ofFin,
    Nat.shiftLeft_eq, Nat.mul_comm _ (2 ^ 4), ← Nat.two_pow_add_eq_or_of_lt low]
  omega

/-- The first two bytes that the format tables give are those that the encoder writes. -/
theorem specBytes_eq {opc : Nat} (hopc : opc < 64) (r : Bool) (a b : RegIdx) :
    specBytes opc r a b = encodeShort (BitVec.ofNat 6 opc) a b r := by
  rw [specBytes, opcodeByte_eq_ofNat hopc, registerByte_eq_ofNat, encodeShort]

theorem decodeWords_add {w : Half} (x : Half) (h : (opcodeField w).toNat = 0x01) :
    decodeWords w x = .ok (.add (reg1Field w) (reg2Field w) (retroBit w)) := by
  simp only [decodeWords, h]

theorem decodeWords_sub {w : Half} (x : Half) (h : (opcodeField w).toNat = 0x02) :
    decodeWords w x = .ok (.sub (reg1Field w) (reg2Field w) (retroBit w)) := by
  simp only [decodeWords, h]

theorem decodeWords_xor {w : Half} (x : Half) (h : (opcodeField w).toNat = 0x03) :
    decodeWords w x = .ok (.xor (reg1Field w) (reg2Field w) (retroBit w)) := by
  simp only [decodeWords, h]

theorem decodeWords_rol {w : Half} (x : Half) (h : (opcodeField w).toNat = 0x04) :
    decodeWords w x = .ok (.rol (reg1Field w) (reg2Field w) (retroBit w)) := by
  simp only [decodeWords, h]

theorem decodeWords_ror {w : Half} (x : Half) (h : (opcodeField w).toNat = 0x05) :
    decodeWords w x = .ok (.ror (reg1Field w) (reg2Field w) (retroBit w)) := by
  simp only [decodeWords, h]

theorem decodeWords_swp {w : Half} (x : Half) (h : (opcodeField w).toNat = 0x08) :
    decodeWords w x = .ok (.swp (reg1Field w) (reg2Field w) (retroBit w)) := by
  simp only [decodeWords, h]

/-- A row that reads both register fields and the r-bit decodes to the registers and the r-bit that its bytes name. -/
theorem decode_registerPair {opc : Nat} {mk : RegIdx → RegIdx → Bool → Instr} (hopc : opc < 32)
    (row : ∀ w : Half, (opcodeField w).toNat = opc →
      decodeWords w 0 = .ok (mk (reg1Field w) (reg2Field w) (retroBit w)))
    (r : Bool) (a b : RegIdx) : decode (specBytes opc r a b) = .ok (mk a b r) := by
  have field : (opcodeField (halfOfBytes (opcodeByte (BitVec.ofNat 6 opc) r) (registerByte a b))).toNat = opc := by
    rw [opcodeField_encoded, BitVec.toNat_ofNat]
    omega
  have short : extendedBit (halfOfBytes (opcodeByte (BitVec.ofNat 6 opc) r) (registerByte a b)) = false := by
    rw [extendedBit_eq_opcodeField, field]
    simpa using hopc
  rw [specBytes_eq (by omega), encodeShort, decode_short short, row _ field, reg1Field_encoded, reg2Field_encoded,
    retroBit_encoded]

end Sys2Proof

namespace Sys2Proof.Machine

/-! PROOF. The register-register instructions (42_register_register.md). Each meaning writes registers and advances, so the
frame of that is proved once; an instruction's own part is the value it writes. -/

/-! ### Writing registers and advancing -/

/-- The tracked advance after a change of the registers leaves everything else as it was (40_cycle.md R107, R108). -/
theorem advance_regs_frame {ws : List RegIdx} {s : State} {regs : Vector Word 16}
    (kept : KeepsRegsExcept ws s { s with regs := regs }) (e r : Bool) :
    KeepsRegsExcept ws s (advance e r { s with regs := regs }) ∧ KeepsMemory s (advance e r { s with regs := regs }) ∧
      KeepsReport s (advance e r { s with regs := regs }) ∧ (advance e r { s with regs := regs }).run = s.run ∧
      Advanced e r s (advance e r { s with regs := regs }) :=
  ⟨kept, fun _ => rfl, ⟨rfl, rfl, rfl⟩, rfl, advance_advanced e r _⟩

theorem setReg_keepsRegsExcept (a : RegIdx) (v : Word) (s : State) : KeepsRegsExcept [a] s (s.setReg a v) :=
  fun _ hc => s.reg_setReg_other v (List.ne_of_not_mem_cons hc)

/-- A 2-byte write of one register: the value, and the frame of the write. -/
theorem writeShort_answers (a : RegIdx) (v : Word) (r : Bool) (s : State) :
    ∃ t : State, writeShort a v r s = .next t ∧ t.reg a = v ∧
      KeepsRegsExcept [a] s t ∧ KeepsMemory s t ∧ KeepsReport s t ∧ t.run = s.run ∧ Advanced false r s t :=
  ⟨_, rfl, s.reg_setReg_same a v, advance_regs_frame (setReg_keepsRegsExcept a v s) false r⟩

/-! ### The meanings -/

theorem exec_add (a b : RegIdx) (r : Bool) (s : State) :
    exec (.add a b r) s = writeShort a (s.reg a + s.reg b) r s := rfl

theorem exec_sub (a b : RegIdx) (r : Bool) (s : State) :
    exec (.sub a b r) s = writeShort a (s.reg a - s.reg b) r s := rfl

theorem exec_xor (a b : RegIdx) (r : Bool) (s : State) :
    exec (.xor a b r) s = writeShort a (s.reg a ^^^ s.reg b) r s := rfl

theorem exec_rol (a b : RegIdx) (r : Bool) (s : State) :
    exec (.rol a b r) s = writeShort a (rotl (s.reg a) ((s.reg b).toNat % 32)) r s := rfl

theorem exec_ror (a b : RegIdx) (r : Bool) (s : State) :
    exec (.ror a b r) s = writeShort a (rotr (s.reg a) ((s.reg b).toNat % 32)) r s := rfl

theorem exec_swp (a b : RegIdx) (r : Bool) (s : State) :
    exec (.swp a b r) s = .next (advance false r ((s.setReg a (s.reg b)).setReg b (s.reg a))) := rfl

/-! ### The instructions that write `x[a]` -/

/-- The difference of two words is the difference of their values modulo `2 ^ 32` (42_register_register.md R131). -/
theorem toNat_sub_eq_emod (x y : Word) : ((x - y).toNat : Int) = (x.toNat - y.toNat : Int) % 4294967296 := by
  have hx := x.isLt
  have hy := y.isLt
  rw [BitVec.toNat_sub]
  omega

/-- Settles O3: ADD is the row of opcode 0x01, and the value it writes is the sum of two words. -/
theorem addWritesSum : Obligations.AddWritesSum := by
  refine fun a b r => ⟨decode_registerPair (by decide) (fun _ => decodeWords_add 0) r a b, fun s => ?_⟩
  obtain ⟨t, run, value, frame⟩ := writeShort_answers a (s.reg a + s.reg b) r s
  exact ⟨t, (exec_add a b r s).trans run, by rw [value, BitVec.toNat_add], frame⟩

/-- Settles O4: SUB is the row of opcode 0x02, and the value it writes is the difference of two words. -/
theorem subWritesDifference : Obligations.SubWritesDifference := by
  refine fun a b r => ⟨decode_registerPair (by decide) (fun _ => decodeWords_sub 0) r a b, fun s => ?_⟩
  obtain ⟨t, run, value, frame⟩ := writeShort_answers a (s.reg a - s.reg b) r s
  exact ⟨t, (exec_sub a b r s).trans run, by rw [value, toNat_sub_eq_emod], frame⟩

/-- Settles O5: XOR is the row of opcode 0x03, and the value it writes is the exclusive or of two words, bit by bit. -/
theorem xorWritesExclusiveOr : Obligations.XorWritesExclusiveOr := by
  refine fun a b r => ⟨decode_registerPair (by decide) (fun _ => decodeWords_xor 0) r a b, fun s => ?_⟩
  obtain ⟨t, run, value, frame⟩ := writeShort_answers a (s.reg a ^^^ s.reg b) r s
  exact ⟨t, (exec_xor a b r s).trans run, fun k _ => by rw [value, BitVec.getLsbD_xor], frame⟩

/-- Settles O6: ROL is the row of opcode 0x04, and it takes value and amount from the state before the write. -/
theorem rolRotatesLeftByRegister : Obligations.RolRotatesLeftByRegister := fun a b r =>
  ⟨decode_registerPair (by decide) (fun _ => decodeWords_rol 0) r a b,
    fun s => exec_rol a b r s ▸ writeShort_answers a _ r s⟩

/-- Settles O7: ROR is the row of opcode 0x05, and it takes value and amount from the state before the write. -/
theorem rorRotatesRightByRegister : Obligations.RorRotatesRightByRegister := fun a b r =>
  ⟨decode_registerPair (by decide) (fun _ => decodeWords_ror 0) r a b,
    fun s => exec_ror a b r s ▸ writeShort_answers a _ r s⟩

/-! ### The exchange -/

/-- The registers after the two writes of SWP, the second of which decides where `a = b` (42_register_register.md R135). -/
theorem reg_exchange (s : State) (a b c : RegIdx) :
    ((s.setReg a (s.reg b)).setReg b (s.reg a)).reg c = if c = b then s.reg a else if c = a then s.reg b else s.reg c := by
  rw [State.reg_setReg, State.reg_setReg]

theorem exchange_keepsRegsExcept (a b : RegIdx) (s : State) :
    KeepsRegsExcept [a, b] s ((s.setReg a (s.reg b)).setReg b (s.reg a)) := by
  intro c hc
  simp only [List.mem_cons, List.not_mem_nil, or_false, not_or] at hc
  obtain ⟨notA, notB⟩ := hc
  rw [reg_exchange, if_neg notB, if_neg notA]

/-- Settles O8: SWP is the row of opcode 0x08. Both values are read before the writes, so `x[b]` is the old `x[a]`, and
`x[a]` the old `x[b]`, also where the two are one register. -/
theorem swpExchangesRegisters : Obligations.SwpExchangesRegisters := by
  refine fun a b r => ⟨decode_registerPair (by decide) (fun _ => decodeWords_swp 0) r a b, fun s => ?_⟩
  refine ⟨_, exec_swp a b r s, ?_, ?_, advance_regs_frame (exchange_keepsRegsExcept a b s) false r⟩
  · rw [advance_reg, reg_exchange, if_pos rfl]
    split
    case isTrue same => rw [same]
    case isFalse => rfl
  · rw [advance_reg, reg_exchange, if_pos rfl]

end Sys2Proof.Machine

namespace Sys2Proof

/-! PROOF. The long instructions (30_encoding.md R62, R67): their first word is the one the encoder writes, and the row of the
opcode map gets the extension word beside it; then the rows of format RI (R72, R73), which read one register field. -/

/-- A row that reads its fields from a first word with the e-bit and from the extension word decodes to the registers, the
signed extension and the r-bit that its bytes name. -/
theorem decode_extended {opc : Nat} {mk : RegIdx → RegIdx → Int → Bool → Instr} (long : 32 ≤ opc) (hopc : opc < 64)
    (row : ∀ w x : Half, (opcodeField w).toNat = opc →
      decodeWords w x = .ok (mk (reg1Field w) (reg2Field w) (sext x) (retroBit w)))
    (r : Bool) (a b : RegIdx) (lo hi : Byte) :
    decode (specBytes opc r a b ++ [lo, hi]) = .ok (mk a b (sext (halfOfBytes lo hi)) r) := by
  have field : (opcodeField (halfOfBytes (opcodeByte (BitVec.ofNat 6 opc) r) (registerByte a b))).toNat = opc := by
    rw [opcodeField_encoded, BitVec.toNat_ofNat, Nat.mod_eq_of_lt hopc]
  have extended : extendedBit (halfOfBytes (opcodeByte (BitVec.ofNat 6 opc) r) (registerByte a b)) = true := by
    rw [extendedBit_eq_opcodeField, field, decide_eq_true long]
  rw [specBytes_eq hopc, encodeShort]
  calc decode [opcodeByte (BitVec.ofNat 6 opc) r, registerByte a b, lo, hi]
    _ = decodeWords (halfOfBytes (opcodeByte (BitVec.ofNat 6 opc) r) (registerByte a b)) (halfOfBytes lo hi) :=
        decode_long extended lo hi []
    _ = .ok (mk a b (sext (halfOfBytes lo hi)) r) := by
        rw [row _ _ field, reg1Field_encoded, reg2Field_encoded, retroBit_encoded]

/-- A row of format RI does not read the second register field (30_encoding.md R75): its instruction is the same for every
`u`. -/
theorem decode_registerImmediate {opc : Nat} {mk : RegIdx → Int → Bool → Instr} (long : 32 ≤ opc) (hopc : opc < 64)
    (row : ∀ w x : Half, (opcodeField w).toNat = opc → decodeWords w x = .ok (mk (reg1Field w) (sext x) (retroBit w)))
    (r : Bool) (a u : RegIdx) (lo hi : Byte) :
    decode (specBytes opc r a u ++ [lo, hi]) = .ok (mk a (sext (halfOfBytes lo hi)) r) :=
  decode_extended (mk := fun a _ => mk a) long hopc row r a u lo hi

theorem decodeWords_addi (w x : Half) (h : (opcodeField w).toNat = 0x21) :
    decodeWords w x = .ok (.addi (reg1Field w) (sext x) (retroBit w)) := by
  simp only [decodeWords, h]

theorem decodeWords_subi (w x : Half) (h : (opcodeField w).toNat = 0x22) :
    decodeWords w x = .ok (.subi (reg1Field w) (sext x) (retroBit w)) := by
  simp only [decodeWords, h]

theorem decodeWords_xori (w x : Half) (h : (opcodeField w).toNat = 0x23) :
    decodeWords w x = .ok (.xori (reg1Field w) (sext x) (retroBit w)) := by
  simp only [decodeWords, h]

theorem decodeWords_roli (w x : Half) (h : (opcodeField w).toNat = 0x24) :
    decodeWords w x = .ok (.roli (reg1Field w) (sext x) (retroBit w)) := by
  simp only [decodeWords, h]

theorem decodeWords_rori (w x : Half) (h : (opcodeField w).toNat = 0x25) :
    decodeWords w x = .ok (.rori (reg1Field w) (sext x) (retroBit w)) := by
  simp only [decodeWords, h]

end Sys2Proof

namespace Sys2Proof.Machine

/-! PROOF. The register-immediate instructions (43_register_immediate.md): each writes one register and advances, so an
instruction's own part is the value it makes of the register and the immediate. -/

/-- A 4-byte write of one register: the value, and the frame of the write. -/
theorem writeLong_answers (a : RegIdx) (v : Word) (r : Bool) (s : State) :
    ∃ t : State, writeLong a v r s = .next t ∧ t.reg a = v ∧
      KeepsRegsExcept [a] s t ∧ KeepsMemory s t ∧ KeepsReport s t ∧ t.run = s.run ∧ Advanced true r s t :=
  ⟨_, rfl, s.reg_setReg_same a v, advance_regs_frame (setReg_keepsRegsExcept a v s) true r⟩

/-! ### The meanings -/

theorem exec_addi (a : RegIdx) (ext : Int) (r : Bool) (s : State) :
    exec (.addi a ext r) s = writeLong a (s.reg a + immediate ext) r s := rfl

theorem exec_subi (a : RegIdx) (ext : Int) (r : Bool) (s : State) :
    exec (.subi a ext r) s = writeLong a (s.reg a - immediate ext) r s := rfl

theorem exec_xori (a : RegIdx) (ext : Int) (r : Bool) (s : State) :
    exec (.xori a ext r) s = writeLong a (s.reg a ^^^ immediate ext) r s := rfl

theorem exec_roli (a : RegIdx) (ext : Int) (r : Bool) (s : State) :
    exec (.roli a ext r) s = writeLong a (rotl (s.reg a) (ext % 32).toNat) r s := rfl

theorem exec_rori (a : RegIdx) (ext : Int) (r : Bool) (s : State) :
    exec (.rori a ext r) s = writeLong a (rotr (s.reg a) (ext % 32).toNat) r s := rfl

/-! ### The immediate -/

/-- The ALU immediate is the extension value modulo `2 ^ 32` (30_encoding.md R69). -/
theorem immediate_toNat (ext : Int) : (immediate ext).toNat = (ext % 4294967296).toNat :=
  BitVec.toNat_ofInt ext

theorem immediate_toNat_eq_emod (ext : Int) : ((immediate ext).toNat : Int) = ext % 4294967296 := by
  rw [immediate_toNat, Int.toNat_of_nonneg (Int.emod_nonneg _ (by decide))]

/-- The sum with the immediate is the sum with the extension value modulo `2 ^ 32` (43_register_immediate.md R150). -/
theorem toNat_add_immediate (x : Word) (ext : Int) :
    ((x + immediate ext).toNat : Int) = (x.toNat + ext) % 4294967296 := by
  calc ((x + immediate ext).toNat : Int)
    _ = (x.toNat + (immediate ext).toNat) % 4294967296 := by rw [BitVec.toNat_add]; norm_cast
    _ = (x.toNat + ext) % 4294967296 := by rw [immediate_toNat_eq_emod, Int.add_emod_emod]

/-- The difference with the immediate is the difference with the extension value modulo `2 ^ 32`
(43_register_immediate.md R151). -/
theorem toNat_sub_immediate (x : Word) (ext : Int) :
    ((x - immediate ext).toNat : Int) = (x.toNat - ext) % 4294967296 := by
  rw [toNat_sub_eq_emod, immediate_toNat_eq_emod, Int.sub_emod_emod]

theorem getLsbD_immediate (ext : Int) (k : Nat) :
    (immediate ext).getLsbD k = (ext % 4294967296).toNat.testBit k := by
  rw [← BitVec.testBit_toNat, immediate_toNat]

/-! ### The instructions -/

/-- Settles O9: ADDI is the row of opcode 0x21, and reducing the immediate before the sum does not change the sum modulo
`2 ^ 32`. -/
theorem addiAddsImmediate : Obligations.AddiAddsImmediate := by
  refine fun a r => ⟨decode_registerImmediate (by decide) (by decide) decodeWords_addi r a, fun ext s => ?_⟩
  obtain ⟨t, run, value, frame⟩ := writeLong_answers a (s.reg a + immediate ext) r s
  exact ⟨t, (exec_addi a ext r s).trans run, by rw [value, toNat_add_immediate], frame⟩

/-- Settles O10: SUBI is the row of opcode 0x22, and reducing the immediate before the difference does not change the
difference modulo `2 ^ 32`. -/
theorem subiSubtractsImmediate : Obligations.SubiSubtractsImmediate := by
  refine fun a r => ⟨decode_registerImmediate (by decide) (by decide) decodeWords_subi r a, fun ext s => ?_⟩
  obtain ⟨t, run, value, frame⟩ := writeLong_answers a (s.reg a - immediate ext) r s
  exact ⟨t, (exec_subi a ext r s).trans run, by rw [value, toNat_sub_immediate], frame⟩

/-- Settles O11: XORI is the row of opcode 0x23, and the bits of the immediate are those of the extension value modulo
`2 ^ 32`. -/
theorem xoriXorsSignExtendedImmediate : Obligations.XoriXorsSignExtendedImmediate := by
  refine fun a r => ⟨decode_registerImmediate (by decide) (by decide) decodeWords_xori r a, fun ext s => ?_⟩
  obtain ⟨t, run, value, frame⟩ := writeLong_answers a (s.reg a ^^^ immediate ext) r s
  exact ⟨t, (exec_xori a ext r s).trans run, fun k _ => by rw [value, BitVec.getLsbD_xor, getLsbD_immediate], frame⟩

/-- Settles O12: ROLI is the row of opcode 0x24, and its amount is the floor modulus of the extension value. -/
theorem roliRotatesLeftByImmediate : Obligations.RoliRotatesLeftByImmediate := fun a r =>
  ⟨decode_registerImmediate (by decide) (by decide) decodeWords_roli r a,
    fun ext s => exec_roli a ext r s ▸ writeLong_answers a _ r s⟩

/-- Settles O13: RORI is the row of opcode 0x25, and its amount is the floor modulus of the extension value. -/
theorem roriRotatesRightByImmediate : Obligations.RoriRotatesRightByImmediate := fun a r =>
  ⟨decode_registerImmediate (by decide) (by decide) decodeWords_rori r a,
    fun ext s => exec_rori a ext r s ▸ writeLong_answers a _ r s⟩

end Sys2Proof.Machine

namespace Sys2Proof.Machine

/-! PROOF. MSWP (44_memory_swap.md): its row of the opcode map, its answer on each side of the address test, and what the
exchange leaves in the register, in the four bytes and in everything else. -/

theorem decodeWords_mswp (w x : Half) (h : (opcodeField w).toNat = 0x29) :
    decodeWords w x = .ok (.mswp (reg1Field w) (reg2Field w) (sext x) (retroBit w)) := by
  simp only [decodeWords, h]

/-! ### The answers -/

/-- MSWP with its four bytes in memory (44_memory_swap.md R170). -/
theorem exec_mswp_of_inside {b : RegIdx} {ext : Int} {s : State}
    (inside : 0 ≤ effectiveAddress b ext s ∧ effectiveAddress b ext s + 4 ≤ 1048576) (a : RegIdx) (r : Bool) :
    exec (.mswp a b ext r) s = .next (advance true r (swapWord a (effectiveAddress b ext s).toNat s)) :=
  if_pos ((inRange_iff _ 4).mpr inside)

/-- MSWP with a byte of the four outside memory (44_memory_swap.md R170, R171). -/
theorem exec_mswp_of_outside {b : RegIdx} {ext : Int} {s : State}
    (outside : ¬ (0 ≤ effectiveAddress b ext s ∧ effectiveAddress b ext s + 4 ≤ 1048576)) (a : RegIdx) (r : Bool) :
    exec (.mswp a b ext r) s = .next (raise .dataOutOfRange (effectiveAddress b ext s) s) :=
  if_neg fun hin => outside ((inRange_iff _ 4).mp hin)

/-! ### The exchange -/

/-- The four bytes of a word with their weights (00_scope.md R14). -/
theorem memRead_four (m : Memory) (a : Nat) :
    memRead m a 4 = (m.readByte a).toNat + 256 * (m.readByte (a + 1)).toNat + 65536 * (m.readByte (a + 2)).toNat
      + 16777216 * (m.readByte (a + 3)).toNat := by
  simp only [memRead, Nat.add_assoc, Nat.reduceAdd]
  omega

theorem memRead_lt (m : Memory) (a n : Nat) : memRead m a n < 256 ^ n := by
  induction n generalizing a with
  | zero => exact Nat.one_pos
  | succ n ih =>
    have low := (m.readByte a).isLt
    have high := ih (a + 1)
    rw [memRead, Nat.pow_succ]
    omega

/-- The word read fits the register, so that nothing of it is lost. -/
theorem swapWord_reg_toNat (a : RegIdx) (ea : Nat) (s : State) :
    ((swapWord a ea s).reg a).toNat = memRead s.mem ea 4 := by
  rw [swapWord_reg, if_pos rfl, BitVec.toNat_ofNat]
  exact Nat.mod_eq_of_lt (memRead_lt s.mem ea 4)

theorem swapWord_keepsRegsExcept (a : RegIdx) (ea : Nat) (s : State) : KeepsRegsExcept [a] s (swapWord a ea s) :=
  setReg_keepsRegsExcept a _ (s.setMem _)

theorem swapWord_keepsMemoryOutside (a : RegIdx) (ea : Nat) (s : State) :
    KeepsMemoryOutside ea 4 s (swapWord a ea s) :=
  fun _ hx => readByte_memWrite_outside s.mem _ hx

/-! ### The statements -/

/-- Settles O14: MSWP is the row of opcode 0x29. Inside memory the register gets the word that was read and the four bytes
get the digits of the register's old value, also where `a = b`, since the address is computed before the exchange; outside
memory the step is a trap. -/
theorem mswpExchangesRegisterAndWord : Obligations.MswpExchangesRegisterAndWord := by
  refine fun a b r => ⟨decode_extended (by decide) (by decide) decodeWords_mswp r a b, fun ext s => ⟨rfl, ?_⟩⟩
  by_cases inside : 0 ≤ effectiveAddress b ext s ∧ effectiveAddress b ext s + 4 ≤ 1048576
  · refine ⟨_, exec_mswp_of_inside inside a r, ?_⟩
    rw [if_pos inside]
    exact ⟨(swapWord_reg_toNat a _ s).trans (memRead_four s.mem _),
      fun _ hk => readByte_memWrite_inside s.mem _ _ hk, swapWord_keepsMemoryOutside a _ s,
      swapWord_keepsRegsExcept a _ s, ⟨rfl, rfl, rfl⟩, rfl, advance_advanced true r _⟩
  · refine ⟨_, exec_mswp_of_outside inside a r, ?_⟩
    rw [if_neg inside]
    exact raise_trapTaken .dataOutOfRange _ s

/-- Settles O15: the four bytes are in memory exactly when the integer sum lies from 0 to MEM_SIZE - 4; inside, the exchange
and the advance write neither `run` nor the trap report. -/
theorem mswpAddressDoesNotWrap : Obligations.MswpAddressDoesNotWrap := by
  refine fun a b ext r s => ⟨rfl, fun inside => ?_, fun outside => ?_⟩
  · exact ⟨_, exec_mswp_of_inside (by omega) a r, rfl, rfl, rfl⟩
  · exact ⟨_, exec_mswp_of_outside (by omega) a r, raise_trapTaken .dataOutOfRange _ s⟩

end Sys2Proof.Machine

namespace Sys2Proof

/-! PROOF. The rows of the opcode map for the branches (30_encoding.md R73). -/

theorem decodeWords_jeq (w x : Half) (h : (opcodeField w).toNat = 0x30) :
    decodeWords w x = .ok (.jeq (reg1Field w) (reg2Field w) (sext x) (retroBit w)) := by
  simp only [decodeWords, h]

theorem decodeWords_jne (w x : Half) (h : (opcodeField w).toNat = 0x31) :
    decodeWords w x = .ok (.jne (reg1Field w) (reg2Field w) (sext x) (retroBit w)) := by
  simp only [decodeWords, h]

theorem decodeWords_jlt (w x : Half) (h : (opcodeField w).toNat = 0x32) :
    decodeWords w x = .ok (.jlt (reg1Field w) (reg2Field w) (sext x) (retroBit w)) := by
  simp only [decodeWords, h]

theorem decodeWords_jgt (w x : Half) (h : (opcodeField w).toNat = 0x33) :
    decodeWords w x = .ok (.jgt (reg1Field w) (reg2Field w) (sext x) (retroBit w)) := by
  simp only [decodeWords, h]

theorem decodeWords_jle (w x : Half) (h : (opcodeField w).toNat = 0x34) :
    decodeWords w x = .ok (.jle (reg1Field w) (reg2Field w) (sext x) (retroBit w)) := by
  simp only [decodeWords, h]

theorem decodeWords_jge (w x : Half) (h : (opcodeField w).toNat = 0x35) :
    decodeWords w x = .ok (.jge (reg1Field w) (reg2Field w) (sext x) (retroBit w)) := by
  simp only [decodeWords, h]

theorem decodeWords_jmp (w x : Half) (h : (opcodeField w).toNat = 0x36) :
    decodeWords w x = .ok (.jmp (sext x) (retroBit w)) := by
  simp only [decodeWords, h]

end Sys2Proof

namespace Sys2Proof.Machine

/-! PROOF. The control-flow instructions (45_control_flow.md). A taken branch and an advance have the same frame, so a branch
instruction's own part is its relation; then where a taken branch goes (R188). -/

/-! ### Taking a branch or not -/

/-- A taken branch moves the cursor and nothing else (40_cycle.md R107, R108). -/
theorem takeBranch_frame (ext : Int) (r : Bool) (s : State) :
    KeepsRegsExcept [] s (takeBranch ext r s) ∧ KeepsMemory s (takeBranch ext r s) ∧
      KeepsReport s (takeBranch ext r s) ∧ (takeBranch ext r s).run = s.run ∧ Branched ext r s (takeBranch ext r s) :=
  ⟨fun _ _ => takeBranch_reg .., fun _ => by rw [takeBranch_mem],
    ⟨takeBranch_tcause .., takeBranch_tinfo .., takeBranch_params ..⟩, takeBranch_run .., takeBranch_branched ext r s⟩

/-- A branch on a relation: the frame, and the cursor by whether the relation holds (45_control_flow.md R180). -/
theorem branchIf_answers (rel : Prop) [Decidable rel] (ext : Int) (r : Bool) (s : State) :
    ∃ t : State, branchIf (decide rel) ext r s = .next t ∧
      KeepsRegsExcept [] s t ∧ KeepsMemory s t ∧ KeepsReport s t ∧ t.run = s.run ∧
      if rel then Branched ext r s t else Advanced true r s t := by
  refine ⟨_, branchIf_eq .., ?_⟩
  by_cases holds : rel
  · simp only [holds, decide_true, if_true]
    exact takeBranch_frame ext r s
  · simp only [holds, decide_false, Bool.false_eq_true, if_false]
    obtain ⟨regs, mem, report, cursor⟩ := advance_frame true r s
    exact ⟨regs, mem, report, advance_run true r s, cursor⟩

/-! ### The meanings -/

theorem exec_jeq (a b : RegIdx) (ext : Int) (r : Bool) (s : State) :
    exec (.jeq a b ext r) s = branchIf (decide ((s.reg a).toNat = (s.reg b).toNat)) ext r s := rfl

theorem exec_jne (a b : RegIdx) (ext : Int) (r : Bool) (s : State) :
    exec (.jne a b ext r) s = branchIf (decide ((s.reg a).toNat ≠ (s.reg b).toNat)) ext r s := rfl

theorem exec_jlt (a b : RegIdx) (ext : Int) (r : Bool) (s : State) :
    exec (.jlt a b ext r) s = branchIf (decide ((s.reg a).toNat < (s.reg b).toNat)) ext r s := rfl

theorem exec_jgt (a b : RegIdx) (ext : Int) (r : Bool) (s : State) :
    exec (.jgt a b ext r) s = branchIf (decide ((s.reg a).toNat > (s.reg b).toNat)) ext r s := rfl

theorem exec_jle (a b : RegIdx) (ext : Int) (r : Bool) (s : State) :
    exec (.jle a b ext r) s = branchIf (decide ((s.reg a).toNat ≤ (s.reg b).toNat)) ext r s := rfl

theorem exec_jge (a b : RegIdx) (ext : Int) (r : Bool) (s : State) :
    exec (.jge a b ext r) s = branchIf (decide ((s.reg a).toNat ≥ (s.reg b).toNat)) ext r s := rfl

theorem exec_jmp (ext : Int) (r : Bool) (s : State) : exec (.jmp ext r) s = .next (takeBranch ext r s) := rfl

/-! ### The target of a taken branch -/

/-- An instruction that takes a branch moves the cursor by the branch's rule: MSWP, the only one that can trap, takes none. -/
theorem exec_branched {i : Instr} {s t : State} {ext : Int} (taken : takenDisplacement s i = some ext)
    (h : exec i s = .next t) : Branched ext (retroOf i) s t := by
  rcases exec_cases h with ⟨a, b, d, r, rfl, -, -⟩ | ran
  · cases taken
  · have cursor := ran.cursor
    rw [taken] at cursor
    exact cursor

/-- The rule of a taken branch by P_BRANCH_RESIDUAL (40_cycle.md R107, R108). -/
theorem branched_cases {ext : Int} {r : Bool} {s t : State} (h : Branched ext r s t) :
    (s.params.branchResidual = .persist ∧ t.sl = s.sl + 2 - (if r then 2 else 0) + ext ∧ t.pc = s.pc + t.sl) ∨
    (s.params.branchResidual = .transient ∧ t.sl = s.sl + 2 - (if r then 2 else 0) ∧ t.pc = s.pc + t.sl + ext) := by
  unfold Branched at h
  cases param : s.params.branchResidual <;> rw [param] at h
  case persist => exact .inl ⟨rfl, h⟩
  case transient => exact .inr ⟨rfl, h⟩

/-- Where the r-bit says the predecessor's length, the tracker takes that length off again and only the residual is left
beside the branch's own 4 bytes (40_cycle.md R103, R104, R112). -/
theorem trackedLength_of_residual {r : Bool} {sl rho : Int} {len : Nat} (length : len = 2 ∨ len = 4)
    (residual : sl = len + rho) (matching : r = true ↔ len = 4) : sl + 2 - (if r then 2 else 0) = 4 + rho := by
  rw [residual]
  rcases length with rfl | rfl
  · rw [if_neg (by simp [matching])]; omega
  · rw [if_pos (matching.mpr rfl)]; omega

/-- Settles O50: the tracked length is `4 + rho` under both parameters; persist adds the displacement to it before `pc` moves
by it, and transient adds the displacement to `pc` alone. -/
theorem takenBranchTarget : Obligations.TakenBranchTarget := by
  intro i s len rho ext length residual matching taken
  obtain ⟨t, ht⟩ := exec_answers_next i s
  have tracked := trackedLength_of_residual length residual matching
  refine ⟨t, ht, ?_⟩
  rcases branched_cases (exec_branched taken ht) with ⟨persist, hsl, hpc⟩ | ⟨transient, hsl, hpc⟩
  · rw [tracked] at hsl
    rw [if_pos persist]
    omega
  · rw [tracked] at hsl
    rw [if_neg (by simp [transient])]
    omega

/-! ### The instructions -/

/-- Settles O16: JEQ is the row of opcode 0x30, and branches on the equality of the unsigned values. -/
theorem jeqBranchesOnEqual : Obligations.JeqBranchesOnEqual := fun a b r =>
  ⟨decode_extended (by decide) (by decide) decodeWords_jeq r a b,
    fun ext s => exec_jeq a b ext r s ▸ branchIf_answers _ ext r s⟩

/-- Settles O17: JNE is the row of opcode 0x31, and branches where the unsigned values differ. -/
theorem jneBranchesOnNotEqual : Obligations.JneBranchesOnNotEqual := fun a b r =>
  ⟨decode_extended (by decide) (by decide) decodeWords_jne r a b,
    fun ext s => exec_jne a b ext r s ▸ branchIf_answers _ ext r s⟩

/-- Settles O18: JLT is the row of opcode 0x32, and compares the unsigned values. -/
theorem jltBranchesOnBelow : Obligations.JltBranchesOnBelow := fun a b r =>
  ⟨decode_extended (by decide) (by decide) decodeWords_jlt r a b,
    fun ext s => exec_jlt a b ext r s ▸ branchIf_answers _ ext r s⟩

/-- Settles O19: JGT is the row of opcode 0x33, and compares the unsigned values; the model's relation has the operands the
other way round. -/
theorem jgtBranchesOnAbove : Obligations.JgtBranchesOnAbove := fun a b r =>
  ⟨decode_extended (by decide) (by decide) decodeWords_jgt r a b,
    fun ext s => exec_jgt a b ext r s ▸ branchIf_answers _ ext r s⟩

/-- Settles O20: JLE is the row of opcode 0x34, and compares the unsigned values. -/
theorem jleBranchesOnBelowOrEqual : Obligations.JleBranchesOnBelowOrEqual := fun a b r =>
  ⟨decode_extended (by decide) (by decide) decodeWords_jle r a b,
    fun ext s => exec_jle a b ext r s ▸ branchIf_answers _ ext r s⟩

/-- Settles O21: JGE is the row of opcode 0x35, and compares the unsigned values; the model's relation has the operands the
other way round. -/
theorem jgeBranchesOnAboveOrEqual : Obligations.JgeBranchesOnAboveOrEqual := fun a b r =>
  ⟨decode_extended (by decide) (by decide) decodeWords_jge r a b,
    fun ext s => exec_jge a b ext r s ▸ branchIf_answers _ ext r s⟩

/-- Settles O22: JMP is the row of opcode 0x36, which reads neither register field, and its meaning is the taken branch. -/
theorem jmpAlwaysBranches : Obligations.JmpAlwaysBranches := fun r =>
  ⟨decode_extended (mk := fun _ _ => .jmp) (by decide) (by decide) decodeWords_jmp r,
    fun ext s => ⟨_, exec_jmp ext r s, takeBranch_frame ext r s⟩⟩

end Sys2Proof.Machine

namespace Sys2Proof.Machine

/-! PROOF. `Reset` in every state (70_reset_and_hazards.md R220). -/

/-- Settles O53: `Reset` writes every field but memory and the parameters; the registers are `reg_hostReset`. -/
theorem resetKeepsMemory : Obligations.ResetKeepsMemory := fun s =>
  ⟨rfl, rfl, rfl, reg_hostReset s, rfl, rfl, rfl, rfl⟩

end Sys2Proof.Machine

namespace Sys2Proof

/-! PROOF. Encoding and decoding are inverse on well-formed instructions (30_encoding.md R60 to R66, R72, R73): a row of the
opcode map reads back the fields that the encoder wrote, and what the decoder answers has its extension value in range. -/

/-! ### The encoder's bytes -/

/-- A row for an opcode with a clear e-bit reads back the two bytes that the encoder writes for it. -/
theorem decode_encodeShort (opc : BitVec 6) {mk : RegIdx → RegIdx → Bool → Instr} (short : opc.getLsbD 5 = false)
    (row : ∀ w : Half, (opcodeField w).toNat = opc.toNat →
      decodeWords w 0 = .ok (mk (reg1Field w) (reg2Field w) (retroBit w)))
    (a b : RegIdx) (r : Bool) (rest : List Byte) : decode (encodeShort opc a b r ++ rest) = .ok (mk a b r) := by
  have first : decode (encodeShort opc a b r ++ rest) = decodeWords (halfOfBytes (opcodeByte opc r) (registerByte a b)) 0 :=
    decode_short (by rw [extendedBit_encoded, short]) rest
  rw [first, row _ (by rw [opcodeField_encoded]), reg1Field_encoded, reg2Field_encoded, retroBit_encoded]

/-- A row for an opcode with the e-bit set reads back the four bytes that the encoder writes for it, when the extension value
fits its word (30_encoding.md R64). -/
theorem decode_encodeLong (opc : BitVec 6) {mk : RegIdx → RegIdx → Int → Bool → Instr} {ext : Int}
    (long : opc.getLsbD 5 = true)
    (row : ∀ w x : Half, (opcodeField w).toNat = opc.toNat →
      decodeWords w x = .ok (mk (reg1Field w) (reg2Field w) (sext x) (retroBit w)))
    (fits : extInRange ext = true) (a b : RegIdx) (r : Bool) (rest : List Byte) :
    decode (encodeLong opc a b ext r ++ rest) = .ok (mk a b ext r) := by
  have words : decode (encodeLong opc a b ext r ++ rest) =
      decodeWords (halfOfBytes (opcodeByte opc r) (registerByte a b))
        (halfOfBytes ((extensionWord ext).extractLsb' 0 8) ((extensionWord ext).extractLsb' 8 8)) :=
    decode_long (by rw [extendedBit_encoded, long]) _ _ rest
  rw [words, row _ _ (by rw [opcodeField_encoded]), reg1Field_encoded, reg2Field_encoded, retroBit_encoded,
    halfOfBytes_split, sext_extensionWord fits]

/-- Each instruction is its own row of the opcode map; the rows that read fewer fields take the encoder's zeros as the ignored
ones (30_encoding.md R75). -/
theorem decode_encode (i : Instr) (wf : i.wellFormed = true) (rest : List Byte) : decode (encode i ++ rest) = .ok i := by
  cases i with
  | nop r => exact decode_encodeShort 0x00 (mk := fun _ _ => .nop) rfl (fun _ => decodeWords_nop 0) 0 0 r rest
  | add a b r => exact decode_encodeShort 0x01 rfl (fun _ => decodeWords_add 0) a b r rest
  | sub a b r => exact decode_encodeShort 0x02 rfl (fun _ => decodeWords_sub 0) a b r rest
  | xor a b r => exact decode_encodeShort 0x03 rfl (fun _ => decodeWords_xor 0) a b r rest
  | rol a b r => exact decode_encodeShort 0x04 rfl (fun _ => decodeWords_rol 0) a b r rest
  | ror a b r => exact decode_encodeShort 0x05 rfl (fun _ => decodeWords_ror 0) a b r rest
  | swp a b r => exact decode_encodeShort 0x08 rfl (fun _ => decodeWords_swp 0) a b r rest
  | hlt r => exact decode_encodeShort 0x0F (mk := fun _ _ => .hlt) rfl (fun _ => decodeWords_hlt 0) 0 0 r rest
  | addi a ext r => exact decode_encodeLong 0x21 (mk := fun a _ => .addi a) rfl decodeWords_addi wf a 0 r rest
  | subi a ext r => exact decode_encodeLong 0x22 (mk := fun a _ => .subi a) rfl decodeWords_subi wf a 0 r rest
  | xori a ext r => exact decode_encodeLong 0x23 (mk := fun a _ => .xori a) rfl decodeWords_xori wf a 0 r rest
  | roli a ext r => exact decode_encodeLong 0x24 (mk := fun a _ => .roli a) rfl decodeWords_roli wf a 0 r rest
  | rori a ext r => exact decode_encodeLong 0x25 (mk := fun a _ => .rori a) rfl decodeWords_rori wf a 0 r rest
  | mswp a b ext r => exact decode_encodeLong 0x29 rfl Machine.decodeWords_mswp wf a b r rest
  | jeq a b ext r => exact decode_encodeLong 0x30 rfl decodeWords_jeq wf a b r rest
  | jne a b ext r => exact decode_encodeLong 0x31 rfl decodeWords_jne wf a b r rest
  | jlt a b ext r => exact decode_encodeLong 0x32 rfl decodeWords_jlt wf a b r rest
  | jgt a b ext r => exact decode_encodeLong 0x33 rfl decodeWords_jgt wf a b r rest
  | jle a b ext r => exact decode_encodeLong 0x34 rfl decodeWords_jle wf a b r rest
  | jge a b ext r => exact decode_encodeLong 0x35 rfl decodeWords_jge wf a b r rest
  | jmp ext r => exact decode_encodeLong 0x36 (mk := fun _ _ => .jmp) rfl decodeWords_jmp wf 0 0 r rest

theorem encode_length (i : Instr) : (encode i).length = lengthOf i := by
  cases i <;> rfl

/-- Settles O46: a case per row of the opcode map, each by the field that the encoder writes and the decoder reads. -/
theorem decodeInvertsEncode : Obligations.DecodeInvertsEncode :=
  fun i rest wf => ⟨decode_encode i wf rest, encode_length i⟩

/-! ### What the decoder answers -/

/-- Every extension value in an answer is the signed value of the extension word (30_encoding.md R64). -/
theorem decodeWords_wellFormed {w x : Half} {i : Instr} (h : decodeWords w x = .ok i) : i.wellFormed = true := by
  unfold decodeWords at h
  split at h <;> cases h <;> simp [Instr.wellFormed, sext_inRange]

/-- An answer of the decoder is an answer of the opcode map for some two words. -/
theorem decodeWords_of_decode {bytes : List Byte} {i : Instr} (h : decode bytes = .ok i) :
    ∃ w x : Half, decodeWords w x = .ok i := by
  match bytes with
  | [] | [_] => cases h
  | _ :: _ :: _ => rcases decode_ok h with ⟨-, hw⟩ | ⟨-, _, _, _, -, hw⟩ <;> exact ⟨_, _, hw⟩

theorem decode_wellFormed {bytes : List Byte} {i : Instr} (h : decode bytes = .ok i) : i.wellFormed = true := by
  obtain ⟨_, _, hw⟩ := decodeWords_of_decode h
  exact decodeWords_wellFormed hw

/-- Settles O47: what is decoded is well formed, so O46's round trip applies to it. -/
theorem decodedInstructionsAreWellFormed : Obligations.DecodedInstructionsAreWellFormed := by
  intro bytes i h
  have wf := decode_wellFormed h
  exact ⟨wf, by simpa using decode_encode i wf []⟩

/-- The signed value of a word is the word's value modulo `2 ^ 16` (00_scope.md R13). -/
theorem sext_emod (v : Half) : sext v % 65536 = v.toNat := by
  have hv := v.isLt
  unfold sext
  split <;> omega

/-- Settles O39: the signed value is in range, and its residue is the value of the little-endian word. -/
theorem extensionWordIsSigned : Obligations.ExtensionWordIsSigned := by
  intro lo hi
  have range := sext_inRange (halfOfBytes lo hi)
  simp only [extInRange, Bool.and_eq_true, decide_eq_true_eq] at range
  refine ⟨range.1, range.2, ?_⟩
  rw [sext_emod, halfOfBytes_toNat]
  norm_cast

/-- Settles O40: the nine byte strings are literals, which the decoder evaluates. -/
theorem decodesSpecWords : Obligations.DecodesSpecWords := by
  unfold Obligations.DecodesSpecWords
  decide

end Sys2Proof

namespace Sys2Proof

/-! PROOF. What the decoder rejects, and the bits it does not look at (30_encoding.md R74, R75). -/

/-! ### The unassigned opcodes -/

/-- The opcode map's only rejection names the opcode (30_encoding.md R74). -/
theorem decodeWords_error {w x : Half} {e : DecodeReject} (h : decodeWords w x = .error e) :
    e = .unassignedOpcode (opcodeField w) := by
  unfold decodeWords at h
  split at h <;> cases h
  rfl

theorem decodeWords_error_iff (w x : Half) :
    decodeWords w x = .error (.unassignedOpcode (opcodeField w)) ↔ (opcodeField w).toNat ∉ opcodeMap := by
  rw [← decodeWords_ok_iff w x]
  cases h : decodeWords w x with
  | ok i => simp
  | error e => simp [decodeWords_error h]

theorem mem_unassignedOpcodes_iff : ∀ n : Nat, n < 64 → (n ∈ unassignedOpcodes ↔ n ∉ opcodeMap) := by
  decide

/-- Settles O42: the two lists partition the 64 opcodes, and the opcode map rejects exactly those without a row. -/
theorem fortyThreeOpcodesAreUnassigned : Obligations.FortyThreeOpcodesAreUnassigned := by
  refine ⟨rfl, mem_unassignedOpcodes_iff, fun b0 b1 b2 b3 => ?_⟩
  have named : BitVec.ofNat 6 b0.toNat = opcodeField (halfOfBytes b0 b1) :=
    BitVec.eq_of_toNat_eq (by rw [opcodeField_toNat, BitVec.toNat_ofNat])
  rw [mem_unassignedOpcodes_iff _ (by omega), decode_four, named, decodeWords_error_iff, opcodeField_toNat]

/-! ### The ignored bits -/

/-- Bit 7 of a first byte is no part of the opcode and none of the r-bit (30_encoding.md R63, R75). -/
theorem firstWord_setBit7 (b0 b1 : Byte) :
    opcodeField (halfOfBytes (b0 ||| 0x80) b1) = opcodeField (halfOfBytes b0 b1) ∧
      retroBit (halfOfBytes (b0 ||| 0x80) b1) = retroBit (halfOfBytes b0 b1) := by
  constructor
  · apply BitVec.eq_of_toNat_eq
    rw [opcodeField_toNat, opcodeField_toNat, BitVec.toNat_or, Nat.or_mod_two_pow (n := 6)]
    simp
  · rw [retroBit_halfOfBytes, retroBit_halfOfBytes, BitVec.getLsbD_or]
    simp

/-- The opcode sets the length (30_encoding.md R66, R67), so first words with one opcode whose rows agree for every extension
word decode alike. -/
theorem decode_congr {b0 c0 b1 c1 : Byte}
    (opcode : opcodeField (halfOfBytes b0 b1) = opcodeField (halfOfBytes c0 c1))
    (rows : ∀ x, decodeWords (halfOfBytes b0 b1) x = decodeWords (halfOfBytes c0 c1) x) (b2 b3 : Byte) :
    decode [b0, b1, b2, b3] = decode [c0, c1, b2, b3] := by
  rw [decode_four, decode_four, rows, extendedBit_eq_opcodeField, opcode, ← extendedBit_eq_opcodeField]

/-- The opcode and the r-bit are in the first byte (30_encoding.md R61, R63). -/
theorem firstByte_fields (b0 b1 c1 : Byte) :
    opcodeField (halfOfBytes b0 b1) = opcodeField (halfOfBytes b0 c1) ∧
      retroBit (halfOfBytes b0 b1) = retroBit (halfOfBytes b0 c1) :=
  ⟨BitVec.eq_of_toNat_eq (by rw [opcodeField_toNat, opcodeField_toNat]),
    by rw [retroBit_halfOfBytes, retroBit_halfOfBytes]⟩

/-- The rows of NOP, HLT and JMP read no register field (30_encoding.md R72, R75). -/
theorem decodeWords_congr_of_noRegister {w v : Half} (x : Half) (opcode : opcodeField w = opcodeField v)
    (retro : retroBit w = retroBit v) (mem : (opcodeField w).toNat ∈ [0x00, 0x0F, 0x36]) :
    decodeWords w x = decodeWords v x := by
  simp only [List.mem_cons, List.not_mem_nil, or_false] at mem
  rcases mem with h | h | h
  · rw [decodeWords_nop x h, decodeWords_nop x (opcode ▸ h), retro]
  · rw [decodeWords_hlt x h, decodeWords_hlt x (opcode ▸ h), retro]
  · rw [decodeWords_jmp w x h, decodeWords_jmp v x (opcode ▸ h), retro]

/-- The rows of format RI read the first register field alone (30_encoding.md R72, R75). -/
theorem decodeWords_congr_of_registerImmediate {w v : Half} (x : Half) (opcode : opcodeField w = opcodeField v)
    (retro : retroBit w = retroBit v) (reg1 : reg1Field w = reg1Field v)
    (mem : (opcodeField w).toNat ∈ [0x21, 0x22, 0x23, 0x24, 0x25]) : decodeWords w x = decodeWords v x := by
  simp only [List.mem_cons, List.not_mem_nil, or_false] at mem
  rcases mem with h | h | h | h | h
  · rw [decodeWords_addi w x h, decodeWords_addi v x (opcode ▸ h), reg1, retro]
  · rw [decodeWords_subi w x h, decodeWords_subi v x (opcode ▸ h), reg1, retro]
  · rw [decodeWords_xori w x h, decodeWords_xori v x (opcode ▸ h), reg1, retro]
  · rw [decodeWords_roli w x h, decodeWords_roli v x (opcode ▸ h), reg1, retro]
  · rw [decodeWords_rori w x h, decodeWords_rori v x (opcode ▸ h), reg1, retro]

/-- The first register field is the low half of the second byte (30_encoding.md R61). -/
theorem reg1Field_congr {b1 c1 : Byte} (h : b1.toNat % 16 = c1.toNat % 16) (b0 : Byte) :
    reg1Field (halfOfBytes b0 b1) = reg1Field (halfOfBytes b0 c1) := by
  apply Fin.ext
  simpa [reg1Field_halfOfBytes, BitVec.extractLsb'_toNat] using h

/-- Settles O43: bit 7 is in no field, and the rows of formats N, J and RI do not read the fields that the other ignored bits
are in. -/
theorem ignoredBitsHaveNoEffect : Obligations.IgnoredBitsHaveNoEffect := by
  refine ⟨fun b0 b1 b2 b3 => ?_, fun b0 b1 c1 b2 b3 mem => ?_, fun b0 b1 c1 b2 b3 mem low => ?_⟩
  · obtain ⟨opcode, retro⟩ := firstWord_setBit7 b0 b1
    refine decode_congr opcode (fun x => ?_) b2 b3
    simp only [decodeWords, opcode, retro, reg1Field_halfOfBytes, reg2Field_halfOfBytes]
  · obtain ⟨opcode, retro⟩ := firstByte_fields b0 b1 c1
    rw [← opcodeField_toNat b0 b1] at mem
    exact decode_congr opcode (fun x => decodeWords_congr_of_noRegister x opcode retro mem) b2 b3
  · obtain ⟨opcode, retro⟩ := firstByte_fields b0 b1 c1
    rw [← opcodeField_toNat b0 b1] at mem
    exact decode_congr opcode
      (fun x => decodeWords_congr_of_registerImmediate x opcode retro (reg1Field_congr low b0) mem) b2 b3

end Sys2Proof

namespace Sys2Proof.Machine

/-! PROOF. What every step keeps (10_state.md R25, R27, R30, R34): a step of a running CORE takes a trap or completes, and each
invariant holds after either. Then memory, which MSWP alone writes (20_memory.md R40). -/

/-! ### A step traps or completes -/

/-- What a step that takes no trap leaves: it fetched a word in memory, it keeps the trap report and the parameters, and it
moves the cursor by one of the two rules, with a displacement that fits an extension word. -/
structure Completed (s t : State) : Prop where
  fetched : 0 ≤ s.pc ∧ s.pc + 2 ≤ 1048576
  report : KeepsReport s t
  run : t.run ≠ .trapped
  cursor : (∃ e r, Advanced e r s t) ∨ ∃ ext r, extInRange ext = true ∧ Branched ext r s t

/-- The displacement of a branch is its extension value. -/
theorem takenDisplacement_inRange {i : Instr} {s : State} {ext : Int} (wf : i.wellFormed = true)
    (taken : takenDisplacement s i = some ext) : extInRange ext = true := by
  cases i with
  | jmp => cases taken; exact wf
  | jeq | jne | jlt | jgt | jle | jge =>
    simp only [takenDisplacement, Option.ite_none_right_eq_some, Option.some.injEq] at taken
    obtain ⟨-, rfl⟩ := taken
    exact wf
  | _ => cases taken

theorem ranOn_run_ne_trapped {i : Instr} {s t : State} (hrun : s.run = .running) (ran : RanOn i s t) :
    t.run ≠ .trapped := by
  rcases ran.run with kept | ⟨halted, -⟩
  · simp [kept, hrun]
  · simp [halted]

theorem completed_of_ranOn {i : Instr} {s t : State} (hrun : s.run = .running)
    (fetched : 0 ≤ s.pc ∧ s.pc + 2 ≤ 1048576) (wf : i.wellFormed = true) (ran : RanOn i s t) : Completed s t := by
  refine ⟨fetched, ran.report, ranOn_run_ne_trapped hrun ran, ?_⟩
  have cursor := ran.cursor
  cases taken : takenDisplacement s i with
  | none => rw [taken] at cursor; exact .inl ⟨_, _, cursor⟩
  | some ext => rw [taken] at cursor; exact .inr ⟨ext, _, takenDisplacement_inRange wf taken, cursor⟩

/-- An unassigned opcode that does not trap is a tracked advance, halting or not (40_cycle.md R105). -/
theorem unassigned_traps_or_completes (w : Half) {s : State} (hrun : s.run = .running)
    (fetched : 0 ≤ s.pc ∧ s.pc + 2 ≤ 1048576) :
    (∃ c info, unassigned w s = raise c info s) ∨ Completed s (unassigned w s) := by
  rcases unassigned_cases w s with ⟨-, he⟩ | ⟨-, he⟩ | ⟨-, he⟩ <;> rw [he]
  · exact .inl ⟨_, _, rfl⟩
  · exact .inr ⟨fetched, ⟨rfl, rfl, rfl⟩, by simp [hrun], .inl ⟨_, _, advance_advanced _ _ _⟩⟩
  · exact .inr ⟨fetched, ⟨rfl, rfl, rfl⟩, by simp, .inl ⟨_, _, advance_advanced _ _ _⟩⟩

theorem step_traps_or_completes {s t : State} (hrun : s.run = .running) (h : step s = .next t) :
    (∃ c info, t = raise c info s) ∨ Completed s t := by
  rcases step_cases h with ⟨stopped, -⟩ | ⟨-, a, -, rfl⟩ | ⟨-, bytes, e, hf, -, rfl⟩ | ⟨-, bytes, i, hf, hd, he⟩
  · exact absurd hrun stopped
  · exact .inl ⟨_, _, rfl⟩
  · obtain ⟨h0, h2, -⟩ := fetch_ok hf
    exact unassigned_traps_or_completes _ hrun ⟨h0, h2⟩
  · obtain ⟨h0, h2, -⟩ := fetch_ok hf
    rcases exec_cases he with ⟨_, _, _, _, -, -, rfl⟩ | ran
    · exact .inl ⟨_, _, rfl⟩
    · exact .inr (completed_of_ranOn hrun ⟨h0, h2⟩ (decode_wellFormed hd) ran)

/-- A property of states that a trap and a completed step keep is kept by every step, since a stopped CORE keeps its state. -/
theorem step_keeps {P : State → Prop} {s t : State} (trap : ∀ c info, P s → P (raise c info s))
    (completed : s.run = .running → Completed s t → P s → P t) (hs : P s) (h : step s = .next t) : P t := by
  by_cases hrun : s.run = .running
  · rcases step_traps_or_completes hrun h with ⟨c, info, rfl⟩ | done
    · exact trap c info hs
    · exact completed hrun done hs
  · rcases step_cases h with ⟨-, rfl⟩ | ⟨running, -⟩ | ⟨running, -⟩ | ⟨running, -⟩
    · exact hs
    all_goals exact absurd running hrun

/-- Settles O31: the parameters are in the frame of a trap and of a completed step. -/
theorem stepKeepsParameters : Obligations.StepKeepsParameters := fun s _ h =>
  step_keeps (P := fun u => u.params = s.params) (fun _ _ _ => rfl) (fun _ ⟨_, ⟨_, _, kept⟩, _, _⟩ _ => kept) rfl h

/-! ### The trap report -/

theorem trapCode_cases (c : TrapCause) : trapCode c = 1 ∨ trapCode c = 2 ∨ trapCode c = 3 := by
  cases c <;> decide

theorem trapCode_ne_zero (c : TrapCause) : trapCode c ≠ 0 := by
  cases c <;> decide

theorem raise_trapReportConsistent (c : TrapCause) (info : Int) (s : State) : TrapReportConsistent (raise c info s) :=
  ⟨fun _ => trapCode_ne_zero c, fun running => absurd rfl running⟩

theorem completed_trapReportConsistent {s t : State} (hrun : s.run = .running) (done : Completed s t)
    (hs : TrapReportConsistent s) : TrapReportConsistent t := by
  obtain ⟨hcause, hinfo, -⟩ := done.report
  obtain ⟨-, untrapped⟩ := hs
  rw [← hcause, ← hinfo] at untrapped
  exact ⟨fun trapped => absurd trapped done.run, fun _ => untrapped (by simp [hrun])⟩

/-- Settles O56: taking a trap names a cause, and a completed step keeps the report of a CORE that is not trapped. -/
theorem everyStepKeepsTrapReport : Obligations.EveryStepKeepsTrapReport := by
  refine ⟨fun s t => ?_, fun s t hrun h trapped => ?_⟩
  · exact step_keeps (fun c info _ => raise_trapReportConsistent c info s) completed_trapReportConsistent
  · rcases step_traps_or_completes hrun h with ⟨c, info, rfl⟩ | done
    · exact trapCode_cases c
    · exact absurd trapped done.run

/-! ### The bound on the cursor -/

theorem extInRange_iff (ext : Int) : extInRange ext = true ↔ -32768 ≤ ext ∧ ext ≤ 32767 := by
  simp [extInRange]

/-- A completed step under persist: the displacement goes to `sl`, and `pc` moves by all of `sl` (40_cycle.md R107). -/
theorem completed_cursor_of_persist {s t : State} (done : Completed s t)
    (persist : s.params.branchResidual = .persist) :
    t.pc = s.pc + t.sl ∧ s.sl - 32768 ≤ t.sl ∧ t.sl ≤ s.sl + 32769 := by
  rcases done.cursor with ⟨e, r, hsl, hpc⟩ | ⟨ext, r, hext, branched⟩
  · exact ⟨hpc, by split at hsl <;> split at hsl <;> omega⟩
  · rw [extInRange_iff] at hext
    rcases branched_cases branched with ⟨-, hsl, hpc⟩ | ⟨transient, -⟩
    · exact ⟨hpc, by split at hsl <;> omega⟩
    · simp [persist] at transient

/-- A completed step under transient: the displacement goes to `pc` alone (40_cycle.md R108). -/
theorem completed_cursor_of_transient {s t : State} (done : Completed s t)
    (transient : s.params.branchResidual = .transient) :
    (s.pc - 32768 ≤ t.pc - t.sl ∧ t.pc - t.sl ≤ s.pc + 32767) ∧ s.sl - 2 ≤ t.sl ∧ t.sl ≤ s.sl + 2 := by
  rcases done.cursor with ⟨e, r, hsl, hpc⟩ | ⟨ext, r, hext, branched⟩
  · exact ⟨by omega, by split at hsl <;> split at hsl <;> omega⟩
  · rw [extInRange_iff] at hext
    rcases branched_cases branched with ⟨persist, -⟩ | ⟨-, hsl, hpc⟩
    · simp [transient] at persist
    · exact ⟨by omega, by split at hsl <;> omega⟩

theorem cursorBounded_iff_of_persist {s : State} (persist : s.params.branchResidual = .persist) :
    CursorBounded s ↔ (-2 ≤ s.pc - s.sl ∧ s.pc - s.sl ≤ 1048574) ∧ (-1081346 ≤ s.sl ∧ s.sl ≤ 1081346) ∧
      -1081346 ≤ s.pc ∧ s.pc ≤ 2129922 := by
  unfold CursorBounded
  simp only [persist, Config.memSize]
  omega

theorem cursorBounded_iff_of_transient {s : State} (transient : s.params.branchResidual = .transient) :
    CursorBounded s ↔ (-32770 ≤ s.pc - s.sl ∧ s.pc - s.sl ≤ 1081341) ∧ (-1081346 ≤ s.sl ∧ s.sl ≤ 1081346) ∧
      -1114116 ≤ s.pc ∧ s.pc ≤ 2162692 := by
  unfold CursorBounded
  simp only [transient, Config.memSize]
  omega

/-- A step completes only at a `pc` in memory, and then the old `pc` bounds the new `pc - sl`: that ties `sl` to memory again,
which is why the bound does not grow. -/
theorem completed_cursorBounded {s t : State} (done : Completed s t) (hs : CursorBounded s) : CursorBounded t := by
  obtain ⟨h0, h2⟩ := done.fetched
  obtain ⟨-, -, kept⟩ := done.report
  cases param : s.params.branchResidual with
  | persist =>
    have moved := completed_cursor_of_persist done param
    rw [cursorBounded_iff_of_persist param] at hs
    rw [cursorBounded_iff_of_persist (kept ▸ param)]
    omega
  | transient =>
    have moved := completed_cursor_of_transient done param
    rw [cursorBounded_iff_of_transient param] at hs
    rw [cursorBounded_iff_of_transient (kept ▸ param)]
    omega

theorem cursorBounded_inside {s : State} (hs : CursorBounded s) :
    -4194304 ≤ s.pc ∧ s.pc < 4194304 ∧ -4194304 ≤ s.sl ∧ s.sl < 4194304 := by
  cases param : s.params.branchResidual with
  | persist => rw [cursorBounded_iff_of_persist param] at hs; omega
  | transient => rw [cursorBounded_iff_of_transient param] at hs; omega

/-- Settles O57: a trap keeps `pc` and `sl`, and a completed step meets the bound again. -/
theorem everyStepKeepsCursorBound : Obligations.EveryStepKeepsCursorBound :=
  ⟨fun _ _ => step_keeps (fun _ _ hs => hs) fun _ => completed_cursorBounded, fun _ => cursorBounded_inside⟩

/-! ### Memory -/

theorem unassigned_mem (w : Half) (s : State) : (unassigned w s).mem = s.mem := by
  rcases unassigned_cases w s with ⟨-, he⟩ | ⟨-, he⟩ | ⟨-, he⟩ <;> simp [he]

/-- What a branch instruction answers: the taken branch or the advance (40_cycle.md R107, R108). -/
theorem branchIf_cases {taken : Bool} {ext : Int} {r : Bool} {s t : State} (h : branchIf taken ext r s = .next t) :
    t = takeBranch ext r s ∨ t = advance true r s := by
  rw [branchIf_eq] at h
  cases taken <;> cases h
  · exact .inr rfl
  · exact .inl rfl

theorem branchIf_mem {taken : Bool} {ext : Int} {r : Bool} {s t : State} (h : branchIf taken ext r s = .next t) :
    t.mem = s.mem := by
  rcases branchIf_cases h with rfl | rfl <;> simp

/-- MSWP with its four bytes in memory is the only meaning that writes memory (20_memory.md R40). -/
theorem exec_mem_cases {i : Instr} {s t : State} (h : exec i s = .next t) :
    t.mem = s.mem ∨ ∃ a b ext r, i = .mswp a b ext r ∧
      0 ≤ effectiveAddress b ext s ∧ effectiveAddress b ext s + 4 ≤ 1048576 ∧
      t.mem = memWrite s.mem (effectiveAddress b ext s).toNat 4 (s.reg a).toNat := by
  cases i with
  | mswp a b ext r =>
    by_cases inside : 0 ≤ effectiveAddress b ext s ∧ effectiveAddress b ext s + 4 ≤ 1048576
    · rw [exec_mswp_of_inside inside] at h
      cases h
      exact .inr ⟨a, b, ext, r, rfl, inside.1, inside.2, rfl⟩
    · rw [exec_mswp_of_outside inside] at h
      cases h
      exact .inl rfl
  | jeq | jne | jlt | jgt | jle | jge | jmp => exact .inl (branchIf_mem h)
  | _ => cases h; exact .inl rfl

/-- A step that writes memory runs an MSWP whose four bytes are in memory (20_memory.md R40, R46). -/
theorem step_mem_cases {s t : State} (h : step s = .next t) :
    t.mem = s.mem ∨ s.run = .running ∧ ∃ bytes a b ext r, fetch s = .ok bytes ∧ decode bytes = .ok (.mswp a b ext r) ∧
      0 ≤ effectiveAddress b ext s ∧ effectiveAddress b ext s + 4 ≤ 1048576 ∧
      t.mem = memWrite s.mem (effectiveAddress b ext s).toNat 4 (s.reg a).toNat := by
  rcases step_cases h with ⟨-, rfl⟩ | ⟨-, a, -, rfl⟩ | ⟨-, _, _, -, -, rfl⟩ | ⟨hrun, bytes, i, hf, hd, he⟩
  · exact .inl rfl
  · exact .inl rfl
  · exact .inl (unassigned_mem _ s)
  · rcases exec_mem_cases he with same | ⟨a, b, ext, r, rfl, written⟩
    · exact .inl same
    · exact .inr ⟨hrun, bytes, a, b, ext, r, hf, hd, written⟩

/-- Settles O55: the only write of memory is that of an MSWP inside it, which keeps the canonical form. -/
theorem everyStepKeepsMemoryCanonical : Obligations.EveryStepKeepsMemoryCanonical := by
  intro s t wf h
  rcases step_mem_cases h with same | ⟨-, _, _, _, _, _, -, -, low, high, written⟩
  · rwa [same]
  · rw [written]
    exact wf_memWrite wf (by rw [Config.memSize]; omega)

/-- Settles O34: a changed byte lies where the MSWP of the step wrote. -/
theorem onlyMswpChangesMemory : Obligations.OnlyMswpChangesMemory := by
  intro s t x h changed
  rcases step_mem_cases h with same | ⟨hrun, bytes, a, b, ext, r, hf, hd, low, -, written⟩
  · rw [same] at changed
    exact absurd rfl changed
  · refine ⟨hrun, bytes, a, b, ext, r, hf, hd, ?_⟩
    by_contra outside
    rw [written] at changed
    exact changed (readByte_memWrite_outside s.mem _ (by omega))

/-- Settles O54: the reset state has an empty memory, no trap, and the cursor at `pc = 0`, `sl = 2`. -/
theorem resetMeetsInvariants : Obligations.ResetMeetsInvariants := by
  refine ⟨rfl, ⟨nofun, fun _ => ⟨rfl, rfl⟩⟩, ?_⟩
  rw [cursorBounded_iff_of_persist rfl]
  decide

end Sys2Proof.Machine

namespace Sys2Proof.Machine

/-! PROOF. Which phase of a step decides (40_cycle.md R100 to R110, 60_exceptions.md R205): the fetch of the bytes that the
decoder needs, then the opcode, then the data access; and that every step and every run answers a next state. -/

/-! ### Totality -/

theorem run_answers_next (k : Nat) (s : State) : ∃ t : State, Host.Core.run core k s = .next t := by
  induction k generalizing s with
  | zero => exact ⟨s, rfl⟩
  | succ k ih =>
    obtain ⟨t, ht⟩ := step_answers_next s
    rw [run_of_step core k ht]
    exact ih t

/-- Settles O29: one step answers a next state, hence so does any number of them. -/
theorem everyStepAnswersNext : Obligations.EveryStepAnswersNext :=
  ⟨step_answers_next, run_answers_next⟩

/-! ### The fetched bytes -/

/-- Where the `lengthOf i` bytes at `pc` are in memory and decode to `i`, they are what the fetch answers: both take the
length from the e-bit of the first word (30_encoding.md R67; 40_cycle.md R103). -/
theorem fetch_of_decode {s : State} {i : Instr} (h0 : 0 ≤ s.pc) (hlen : s.pc + lengthOf i ≤ 1048576)
    (hd : decode (readBytes s.mem s.pc.toNat (lengthOf i)) = .ok i) :
    fetch s = .ok (readBytes s.mem s.pc.toNat (lengthOf i)) := by
  have length : lengthOf i = if extendedBit (firstWord s.mem s.pc.toNat) then 4 else 2 := by
    cases long : isLong i <;> rw [lengthOf, long] at hd <;> exact decode_lengthOf hd
  cases extended : extendedBit (firstWord s.mem s.pc.toNat) with
  | false =>
    have short : lengthOf i = 2 := by rw [length, extended]; rfl
    rw [short] at hlen ⊢
    exact fetch_short ((inRange_iff _ _).mpr ⟨h0, hlen⟩) extended
  | true =>
    have long : lengthOf i = 4 := by rw [length, extended]; rfl
    rw [long] at hlen ⊢
    have first : inRange s.pc 2 = true := by rw [inRange_iff]; omega
    have second : inRange (s.pc + 2) 2 = true := by rw [inRange_iff]; omega
    rw [fetch_long first extended, if_pos second]

/-- Settles O23: the step fetches the bytes that decode to the instruction, and runs it. -/
theorem stepRunsTheDecodedInstruction : Obligations.StepRunsTheDecodedInstruction :=
  fun _ _ hrun h0 hlen _ hd => step_of_decode_ok hrun (fetch_of_decode h0 hlen hd) hd

/-- The fetch fails at `pc + 2` when the e-bit asks for an extension word that is not in memory (40_cycle.md R103). -/
theorem fetch_of_extension_outside {s : State} (h0 : 0 ≤ s.pc) (h2 : s.pc + 2 ≤ 1048576)
    (extended : extendedBit (firstWord s.mem s.pc.toNat) = true) (outside : 1048576 < s.pc + 4) :
    fetch s = .error (s.pc + 2) := by
  rw [fetch_long ((inRange_iff _ _).mpr ⟨h0, h2⟩) extended, if_neg]
  rw [inRange_iff]
  omega

/-- Settles O26: the fetch comes before the opcode is looked at. -/
theorem extensionFetchOutOfRangeTraps : Obligations.ExtensionFetchOutOfRangeTraps :=
  fun s hrun h0 h2 extended outside => ⟨_, step_of_fetch_error hrun (fetch_of_extension_outside h0 h2 extended outside),
    raise_trapTaken .fetchOutOfRange (s.pc + 2) s⟩

/-! ### The phases after the fetch -/

/-- An unassigned opcode leaves the CORE untrapped, with its report, unless the parameter is trap (40_cycle.md R105). -/
theorem unassigned_keeps_of_ne_trap {w : Half} {s : State} (hrun : s.run = .running)
    (param : s.params.illegalOpcode ≠ .trap) :
    (unassigned w s).run ≠ .trapped ∧ (unassigned w s).tcause = s.tcause ∧ (unassigned w s).tinfo = s.tinfo := by
  rcases unassigned_cases w s with ⟨trap, -⟩ | ⟨-, he⟩ | ⟨-, he⟩
  · exact absurd trap param
  · simp [he, hrun]
  · simp [he]

/-- An instruction other than MSWP does not trap (60_exceptions.md R201). -/
theorem exec_keeps_of_ne_mswp {i : Instr} {s t : State} (hrun : s.run = .running) (h : exec i s = .next t)
    (other : opcodeOf i ≠ 0x29) : t.run ≠ .trapped ∧ t.tcause = s.tcause ∧ t.tinfo = s.tinfo := by
  rcases exec_cases h with ⟨_, _, _, _, rfl, -, -⟩ | ran
  · exact absurd rfl other
  · obtain ⟨hcause, hinfo, -⟩ := ran.report
    exact ⟨ranOn_run_ne_trapped hrun ran, hcause, hinfo⟩

/-- Fetched bytes whose opcode has a row are the instruction of that row (30_encoding.md R73). -/
theorem decode_fetched_ok {s : State} {bytes : List Byte} (hf : fetch s = .ok bytes)
    (opcode : (firstWord s.mem s.pc.toNat).toNat % 64 ∈ opcodeMap) :
    ∃ i, decode bytes = .ok i ∧ opcodeOf i = (firstWord s.mem s.pc.toNat).toNat % 64 := by
  rw [← opcodeField_eq_mod] at opcode ⊢
  obtain ⟨i, hi⟩ := decodeWords_of_mem_opcodeMap
    (if extendedBit (firstWord s.mem s.pc.toNat) then firstWord s.mem (s.pc.toNat + 2) else 0) opcode
  exact ⟨i, (decode_fetched hf).trans hi, decodeWords_opcodeOf hi⟩

/-- A fetched word with an unassigned opcode is treated as the parameter says (40_cycle.md R105). -/
theorem step_of_unassigned {s : State} {bytes : List Byte} (hrun : s.run = .running) (hf : fetch s = .ok bytes)
    (opcode : (firstWord s.mem s.pc.toNat).toNat % 64 ∈ unassignedOpcodes) :
    step s = .next (unassigned (firstWord s.mem s.pc.toNat) s) := by
  rw [mem_unassignedOpcodes_iff _ (by omega)] at opcode
  obtain ⟨e, hd⟩ := decode_fetched_error hf opcode
  exact step_of_decode_error hrun hf hd

/-- A fetched word with MSWP's opcode runs the MSWP of its register fields and of the extension word at `pc + 2`, which is
fetched because the opcode has the e-bit set (30_encoding.md R73). -/
theorem step_of_mswp {s : State} {bytes : List Byte} (hrun : s.run = .running) (hf : fetch s = .ok bytes)
    (opcode : (firstWord s.mem s.pc.toNat).toNat % 64 = 0x29) :
    step s = exec (.mswp (reg1Field (firstWord s.mem s.pc.toNat)) (reg2Field (firstWord s.mem s.pc.toNat))
      (sext (firstWord s.mem (s.pc.toNat + 2))) (retroBit (firstWord s.mem s.pc.toNat))) s := by
  rw [← opcodeField_eq_mod] at opcode
  have extended : extendedBit (firstWord s.mem s.pc.toNat) = true := by
    rw [extendedBit_eq_opcodeField, opcode]
    rfl
  apply step_of_decode_ok hrun hf
  rw [decode_fetched hf, decodeWords_mswp _ _ opcode, if_pos extended]

/-- The effective address of the MSWP that the words at `pc` name, if they name one (44_memory_swap.md R171). -/
def fetchedAddress (s : State) : Int :=
  effectiveAddress (reg2Field (firstWord s.mem s.pc.toNat)) (sext (firstWord s.mem (s.pc.toNat + 2))) s

/-- After a fetch that succeeds, only an unassigned opcode under trap and an MSWP out of range trap (60_exceptions.md R201,
R205). -/
theorem step_keeps_of_legal_of_inside {s t : State} {bytes : List Byte} (hrun : s.run = .running)
    (hf : fetch s = .ok bytes) (h : step s = .next t)
    (legal : (firstWord s.mem s.pc.toNat).toNat % 64 ∈ unassignedOpcodes → s.params.illegalOpcode ≠ .trap)
    (inside : (firstWord s.mem s.pc.toNat).toNat % 64 = 0x29 →
      0 ≤ fetchedAddress s ∧ fetchedAddress s + 4 ≤ 1048576) :
    t.run ≠ .trapped ∧ t.tcause = s.tcause ∧ t.tinfo = s.tinfo := by
  by_cases opcode : (firstWord s.mem s.pc.toNat).toNat % 64 ∈ unassignedOpcodes
  · rw [step_of_unassigned hrun hf opcode] at h
    cases h
    exact unassigned_keeps_of_ne_trap hrun (legal opcode)
  · rw [mem_unassignedOpcodes_iff _ (by omega), not_not] at opcode
    by_cases swap : (firstWord s.mem s.pc.toNat).toNat % 64 = 0x29
    · rw [step_of_mswp hrun hf swap, exec_mswp_of_inside (inside swap)] at h
      cases h
      simp [hrun]
    · obtain ⟨i, hd, hi⟩ := decode_fetched_ok hf opcode
      rw [step_of_decode_ok hrun hf hd] at h
      exact exec_keeps_of_ne_mswp hrun h (hi ▸ swap)

/-- Settles O27: the conditions are taken in the order of the phases, each with the step that its phase answers; where none
holds, no phase after the fetch traps. -/
theorem trapsFollowPhaseOrder : Obligations.TrapsFollowPhaseOrder := by
  intro s hrun
  obtain ⟨t, ht⟩ := step_answers_next s
  refine ⟨t, ht, ?_⟩
  intro w ea
  have extended_iff : extendedBit w = true ↔ w.toNat / 32 % 2 = 1 := by rw [extendedBit_eq, decide_eq_true_iff]
  by_cases word : s.pc < 0 ∨ 1048576 < s.pc + 2
  · rw [if_pos word]
    rw [step_of_fetch_error hrun (fetch_of_not_inRange (by omega))] at ht
    cases ht
    exact raise_trapTaken .fetchOutOfRange _ s
  rw [if_neg word]
  by_cases extension : w.toNat / 32 % 2 = 1 ∧ 1048576 < s.pc + 4
  · rw [if_pos extension]
    obtain ⟨extended, outside⟩ := extension
    rw [step_of_fetch_error hrun
      (fetch_of_extension_outside (by omega) (by omega) (extended_iff.mpr extended) outside)] at ht
    cases ht
    exact raise_trapTaken .fetchOutOfRange _ s
  rw [if_neg extension]
  obtain ⟨bytes, hf⟩ := fetch_of_inRange (s := s) (by omega) (by omega) fun extended => by
    have := extended_iff.mp extended
    omega
  by_cases illegal : w.toNat % 64 ∈ unassignedOpcodes ∧ s.params.illegalOpcode = .trap
  · rw [if_pos illegal]
    obtain ⟨opcode, param⟩ := illegal
    rw [step_of_unassigned hrun hf opcode] at ht
    cases ht
    rw [unassigned, param]
    exact raise_trapTaken .illegalOpcode _ s
  rw [if_neg illegal]
  by_cases data : w.toNat % 64 = 0x29 ∧ ¬ (0 ≤ ea ∧ ea + 4 ≤ 1048576)
  · rw [if_pos data]
    obtain ⟨opcode, outside⟩ := data
    rw [step_of_mswp hrun hf opcode, exec_mswp_of_outside outside] at ht
    cases ht
    exact raise_trapTaken .dataOutOfRange _ s
  rw [if_neg data]
  exact step_keeps_of_legal_of_inside hrun hf ht (fun opcode param => illegal ⟨opcode, param⟩)
    fun opcode => not_not.mp fun outside => data ⟨opcode, outside⟩

end Sys2Proof.Machine

namespace Sys2Proof.Machine

/-! PROOF. What an instruction reads and writes (10_state.md R22; 20_memory.md R40), and what its r-bit does (30_encoding.md
R68). Each fact is said of the shared operations first: a register write, the advance, a branch, the exchange of MSWP. -/

/-! ### The registers an instruction writes -/

theorem branchIf_keepsRegsExcept {taken : Bool} {ext : Int} {r : Bool} {s t : State}
    (h : branchIf taken ext r s = .next t) : KeepsRegsExcept [] s t := by
  intro c _
  rcases branchIf_cases h with rfl | rfl <;> simp

theorem execMswp_keepsRegsExcept {a b : RegIdx} {ext : Int} {r : Bool} {s t : State}
    (h : execMswp a b ext r s = .next t) : KeepsRegsExcept [a] s t := by
  rcases execMswp_cases a b ext r s with ⟨-, he⟩ | ⟨-, he⟩ <;> rw [he] at h <;> cases h
  · exact swapWord_keepsRegsExcept a _ s
  · exact fun _ _ => rfl

/-- Settles O32: an instruction writes no register, the register `a`, or, SWP alone, `a` and `b`; the cursor's operations write
none. -/
theorem onlyWrittenRegistersChange : Obligations.OnlyWrittenRegistersChange := by
  intro i s t h
  cases i with
  | nop | hlt => cases h; exact fun _ _ => rfl
  | swp a b => cases h; exact exchange_keepsRegsExcept a b s
  | mswp => exact execMswp_keepsRegsExcept h
  | jeq | jne | jlt | jgt | jle | jge | jmp => exact branchIf_keepsRegsExcept h
  | _ => cases h; exact setReg_keepsRegsExcept _ _ s

/-! ### The registers an instruction reads -/

/-- Two states that agree on some registers and on everything but the registers. -/
structure AgreeOn (regs : List RegIdx) (s s' : State) : Prop where
  reg : ∀ c ∈ regs, s'.reg c = s.reg c
  rest : s' = { s with regs := s'.regs }

theorem agreeOn_iff_observe (regs : List RegIdx) (s s' : State) :
    AgreeOn regs s s' ↔ (∀ c ∈ regs, s'.reg c = s.reg c) ∧ observe s' = { observe s with regs := s'.regs } ∧
      s'.params = s.params := by
  constructor
  · rintro ⟨agree, rest⟩
    exact ⟨agree, by rw [rest]; rfl, by rw [rest]⟩
  · rintro ⟨agree, observed, params⟩
    refine ⟨agree, ?_⟩
    cases s
    cases s'
    simp_all [observe]

section Agreement

variable {regs : List RegIdx} {s s' : State}

theorem AgreeOn.mono {ws : List RegIdx} (h : AgreeOn regs s s') (sub : ∀ c ∈ ws, c ∈ regs) : AgreeOn ws s s' :=
  ⟨fun c hc => h.reg c (sub c hc), h.rest⟩

/-- A register that gets the same value in both states is one more that they agree on. -/
theorem AgreeOn.setReg (h : AgreeOn regs s s') (a : RegIdx) {v v' : Word} (value : v' = v) :
    AgreeOn (a :: regs) (s.setReg a v) (s'.setReg a v') := by
  subst value
  refine ⟨fun c hc => ?_, ?_⟩
  · rw [State.reg_setReg, State.reg_setReg]
    split
    case isTrue => rfl
    case isFalse other => exact h.reg c (List.mem_of_ne_of_mem other hc)
  · rw [h.rest]
    rfl

theorem AgreeOn.setMem (h : AgreeOn regs s s') (m : Memory) : AgreeOn regs (s.setMem m) (s'.setMem m) :=
  ⟨h.reg, by rw [h.rest]; rfl⟩

theorem AgreeOn.advance (h : AgreeOn regs s s') (e r : Bool) :
    AgreeOn regs (advance e r s) (advance e r s') :=
  ⟨h.reg, by rw [h.rest]; rfl⟩

theorem AgreeOn.halt (h : AgreeOn regs s s') : AgreeOn regs (halt s) (halt s') :=
  ⟨h.reg, by rw [h.rest]; rfl⟩

theorem AgreeOn.raise (h : AgreeOn regs s s') (c : TrapCause) (info : Int) :
    AgreeOn regs (raise c info s) (raise c info s') :=
  ⟨h.reg, by rw [h.rest]; rfl⟩

/-- Taking a branch reads no register. -/
theorem AgreeOn.takeBranch (h : AgreeOn regs s s') (ext : Int) (r : Bool) :
    AgreeOn regs (takeBranch ext r s) (takeBranch ext r s') := by
  refine ⟨fun c hc => by rw [takeBranch_reg, takeBranch_reg, h.reg c hc], ?_⟩
  rw [h.rest]
  cases param : s.params.branchResidual <;> simp [Machine.takeBranch, param]

/-- The exchange of MSWP reads `x[a]` and memory (44_memory_swap.md R170). -/
theorem AgreeOn.swapWord {a : RegIdx} (h : AgreeOn regs s s') (read : s'.reg a = s.reg a) (ea : Nat) :
    AgreeOn (a :: regs) (swapWord a ea s) (swapWord a ea s') := by
  have mem : s'.mem = s.mem := by rw [h.rest]
  rw [Machine.swapWord, Machine.swapWord, mem, read]
  exact (h.setMem _).setReg a rfl

end Agreement

/-- Two answers that are next states in agreement. -/
def AnswersAgreeOn (regs : List RegIdx) (o o' : Host.Outcome State Fault Refusal) : Prop :=
  ∃ t t' : State, o = .next t ∧ o' = .next t' ∧ AgreeOn regs t t'

theorem writeShort_agreeOn (f : Word → Word → Word) {a b : RegIdx} {s s' : State} (h : AgreeOn [a, b] s s') (r : Bool) :
    AnswersAgreeOn [a] (writeShort a (f (s.reg a) (s.reg b)) r s) (writeShort a (f (s'.reg a) (s'.reg b)) r s') := by
  have value : f (s'.reg a) (s'.reg b) = f (s.reg a) (s.reg b) := by rw [h.reg a (by simp), h.reg b (by simp)]
  exact ⟨_, _, rfl, rfl, ((h.mono (ws := []) (by simp)).setReg a value).advance false r⟩

theorem writeLong_agreeOn (f : Word → Word) {a : RegIdx} {s s' : State} (h : AgreeOn [a] s s') (r : Bool) :
    AnswersAgreeOn [a] (writeLong a (f (s.reg a)) r s) (writeLong a (f (s'.reg a)) r s') := by
  have value : f (s'.reg a) = f (s.reg a) := by rw [h.reg a (by simp)]
  exact ⟨_, _, rfl, rfl, ((h.mono (ws := []) (by simp)).setReg a value).advance true r⟩

theorem branchIf_agreeOn (rel : Word → Word → Bool) {a b : RegIdx} {s s' : State} (h : AgreeOn [a, b] s s') (ext : Int)
    (r : Bool) :
    AnswersAgreeOn [] (branchIf (rel (s.reg a) (s.reg b)) ext r s) (branchIf (rel (s'.reg a) (s'.reg b)) ext r s') := by
  rw [h.reg a (by simp), h.reg b (by simp)]
  refine ⟨_, _, rfl, rfl, ?_⟩
  have none := h.mono (ws := []) (by simp)
  cases rel (s.reg a) (s.reg b)
  · exact none.advance true r
  · exact none.takeBranch ext r

theorem execMswp_agreeOn {a b : RegIdx} {s s' : State} (h : AgreeOn [a, b] s s') (ext : Int) (r : Bool) :
    AnswersAgreeOn [a] (execMswp a b ext r s) (execMswp a b ext r s') := by
  have address : effectiveAddress b ext s' = effectiveAddress b ext s := by
    rw [effectiveAddress, effectiveAddress, h.reg b (by simp)]
  rw [execMswp, execMswp, address]
  split
  · exact ⟨_, _, rfl, rfl, ((h.mono (ws := []) (by simp)).swapWord (h.reg a (by simp)) _).advance true r⟩
  · exact ⟨_, _, rfl, rfl, (h.mono (by simp)).raise _ _⟩

/-- Each instruction is one of the shared operations on a function or relation of the registers that it reads. -/
theorem exec_agreeOn (i : Instr) {s s' : State} (h : AgreeOn (readRegs i) s s') :
    AnswersAgreeOn (writtenRegs i) (exec i s) (exec i s') := by
  cases i with
  | nop r => exact ⟨_, _, rfl, rfl, h.advance false r⟩
  | hlt r => exact ⟨_, _, rfl, rfl, (h.advance false r).halt⟩
  | add a b r => exact writeShort_agreeOn (· + ·) h r
  | sub a b r => exact writeShort_agreeOn (· - ·) h r
  | xor a b r => exact writeShort_agreeOn (· ^^^ ·) h r
  | rol a b r => exact writeShort_agreeOn (fun x y => rotl x (rotateAmountReg y)) h r
  | ror a b r => exact writeShort_agreeOn (fun x y => rotr x (rotateAmountReg y)) h r
  | swp a b r =>
    have exchanged := ((h.mono (ws := []) (by simp)).setReg a (h.reg b (by simp [readRegs]))).setReg b
      (h.reg a (by simp [readRegs]))
    exact ⟨_, _, rfl, rfl, (exchanged.mono (by simp [writtenRegs])).advance false r⟩
  | addi a ext r => exact writeLong_agreeOn (· + immediate ext) h r
  | subi a ext r => exact writeLong_agreeOn (· - immediate ext) h r
  | xori a ext r => exact writeLong_agreeOn (· ^^^ immediate ext) h r
  | roli a ext r => exact writeLong_agreeOn (rotl · (rotateAmountImm ext)) h r
  | rori a ext r => exact writeLong_agreeOn (rotr · (rotateAmountImm ext)) h r
  | mswp a b ext r => exact execMswp_agreeOn h ext r
  | jeq a b ext r => exact branchIf_agreeOn condEq h ext r
  | jne a b ext r => exact branchIf_agreeOn condNe h ext r
  | jlt a b ext r => exact branchIf_agreeOn condLt h ext r
  | jgt a b ext r => exact branchIf_agreeOn condGt h ext r
  | jle a b ext r => exact branchIf_agreeOn condLe h ext r
  | jge a b ext r => exact branchIf_agreeOn condGe h ext r
  | jmp ext r => exact ⟨_, _, rfl, rfl, h.takeBranch ext r⟩

/-- Settles O33: agreement on what is read becomes agreement on what is written, with everything but the registers. -/
theorem onlyReadRegistersMatter : Obligations.OnlyReadRegistersMatter := by
  intro i s s' t t' agree observed params h h'
  obtain ⟨u, u', hu, hu', answer⟩ := exec_agreeOn i ((agreeOn_iff_observe _ s s').mpr ⟨agree, observed, params⟩)
  rw [h] at hu
  rw [h'] at hu'
  cases hu
  cases hu'
  obtain ⟨written, observed', -⟩ := (agreeOn_iff_observe _ t t').mp answer
  exact ⟨written, observed'⟩

/-! ### Data memory -/

theorem takeBranch_setMem (ext : Int) (r : Bool) (s : State) (m : Memory) :
    takeBranch ext r (s.setMem m) = (takeBranch ext r s).setMem m := by
  cases param : s.params.branchResidual <;> simp [takeBranch, param, State.setMem]

theorem branchIf_setMem (taken : Bool) (ext : Int) (r : Bool) (s : State) (m : Memory) :
    ∃ t : State, branchIf taken ext r s = .next t ∧ branchIf taken ext r (s.setMem m) = .next (t.setMem m) := by
  refine ⟨_, branchIf_eq .., ?_⟩
  cases taken
  · rfl
  · exact congrArg Host.Outcome.next (takeBranch_setMem ext r s m)

/-- Settles O35: every operation but the exchange of MSWP commutes with a change of memory. -/
theorem onlyMswpReadsDataMemory : Obligations.OnlyMswpReadsDataMemory := by
  intro i s m other
  cases i with
  | mswp => exact absurd rfl other
  | jeq | jne | jlt | jgt | jle | jge | jmp => exact branchIf_setMem _ _ _ s m
  | _ => exact ⟨_, rfl, rfl⟩

/-! ### The r-bit -/

/-- The 2 that the r-bit takes off the step length may be taken off before (40_cycle.md R104). -/
theorem trackLength_retro (e : Bool) (sl : Int) : trackLength e true sl = trackLength e false (sl - 2) := by
  simp only [trackLength, if_true, Bool.false_eq_true, if_false]
  omega

theorem advance_retro (e : Bool) (s : State) : advance e true s = advance e false { s with sl := s.sl - 2 } := by
  rw [advance, trackLength_retro]
  rfl

theorem takeBranch_retro (ext : Int) (s : State) :
    takeBranch ext true s = takeBranch ext false { s with sl := s.sl - 2 } := by
  cases param : s.params.branchResidual <;> simp [takeBranch, param, trackLength_retro]

theorem branchIf_retro (taken : Bool) (ext : Int) (s : State) :
    branchIf taken ext true s = branchIf taken ext false { s with sl := s.sl - 2 } := by
  rw [branchIf_eq, branchIf_eq, takeBranch_retro, advance_retro]

/-- An instruction that does not trap uses its r-bit in the length tracker alone (30_encoding.md R68). -/
theorem exec_retro {i : Instr} {s : State} (retro : retroOf i = true)
    (inside : ∀ a b ext r, i = .mswp a b ext r →
      0 ≤ effectiveAddress b ext s ∧ effectiveAddress b ext s + 4 ≤ 1048576) :
    exec i s = exec (clearRetro i) { s with sl := s.sl - 2 } := by
  cases i with
  | mswp a b ext r =>
    cases retro
    rw [exec_mswp_of_inside (inside a b ext true rfl), clearRetro,
      exec_mswp_of_inside (s := { s with sl := s.sl - 2 }) (inside a b ext true rfl), advance_retro]
    rfl
  | hlt => cases retro; exact congrArg Host.Outcome.next (congrArg halt (advance_retro false s))
  | jeq | jne | jlt | jgt | jle | jge | jmp => cases retro; exact branchIf_retro _ _ s
  | _ => cases retro; exact congrArg Host.Outcome.next (advance_retro _ _)

/-- Settles O45: the r-bit acts in the length tracker, which a trap discards. -/
theorem retroBitOnlyMovesStepLength : Obligations.RetroBitOnlyMovesStepLength := by
  refine ⟨fun i s t retro h inside => exec_retro retro inside ▸ h, fun a b ext s outside => ?_⟩
  exact ⟨_, exec_mswp_of_outside outside a true, raise_trapTaken .dataOutOfRange _ s,
    exec_mswp_of_outside (s := { s with sl := s.sl - 2 }) outside a false⟩

end Sys2Proof.Machine

namespace Sys2Proof.Machine

/-! PROOF. The cursor of an instruction that does not trap (40_cycle.md R111, R112): the two inferences of the spec about the
residual `sl - len`. -/

/-- Not trapping excludes MSWP's trap, so the instruction ran on. -/
theorem ranOn_of_run_ne_trapped {i : Instr} {s t : State} (h : exec i s = .next t) (untrapped : t.run ≠ .trapped) :
    RanOn i s t := by
  rcases exec_cases h with ⟨_, _, _, _, -, -, rfl⟩ | ran
  · exact absurd rfl untrapped
  · exact ran

/-- The cursor of an instruction that takes no branch, with its own length (40_cycle.md R103, R104). -/
theorem cursor_of_not_taken {i : Instr} {s t : State} (ran : RanOn i s t) (straight : takenDisplacement s i = none) :
    t.sl = s.sl + (lengthOf i - 2) - (if retroOf i then 2 else 0) ∧ t.pc = s.pc + t.sl := by
  have cursor := ran.cursor
  rw [straight] at cursor
  obtain ⟨hsl, hpc⟩ := cursor
  refine ⟨?_, hpc⟩
  rw [hsl, lengthOf]
  cases isLong i <;> simp

/-- Only the 4-byte branches take a displacement (40_cycle.md R106). -/
theorem lengthOf_of_taken {i : Instr} {s : State} {ext : Int} (taken : takenDisplacement s i = some ext) :
    lengthOf i = 4 := by
  cases i with
  | jeq | jne | jlt | jgt | jle | jge | jmp => rfl
  | _ => cases taken

/-- The r-bit that matches the predecessor's length takes off what that length is over 2. -/
theorem retro_of_matching {r : Bool} {len : Nat} (length : len = 2 ∨ len = 4) (matching : r = true ↔ len = 4) :
    (if r then 2 else 0 : Int) = len - 2 := by
  rcases length with rfl | rfl
  · simp [matching]
  · simp [matching]

/-- Settles O48: the tracker adds the instruction's own length over 2, and the matching r-bit takes off the predecessor's. -/
theorem straightLineAdvancesByLength : Obligations.StraightLineAdvancesByLength := by
  intro i s t len length hsl matching straight h untrapped
  obtain ⟨moved, hpc⟩ := cursor_of_not_taken (ranOn_of_run_ne_trapped h untrapped) straight
  rw [retro_of_matching length matching] at moved
  omega

/-- The r-bit term and the length term of the residual law, against the tracker's own. -/
theorem residual_terms {r : Bool} {len : Nat} (length : len = 2 ∨ len = 4) :
    (2 : Int) * ((if len = 4 then 1 else 0) - (if r then 1 else 0)) = len - 2 - (if r then 2 else 0) := by
  rcases length with rfl | rfl <;> cases r <;> rfl

/-- Settles O49: without a branch the displacement terms are 0; a taken branch adds its displacement to `sl` under persist and
to `pc` alone under transient. -/
theorem residualLaw : Obligations.ResidualLaw := by
  intro i s t len length h untrapped
  have ran := ranOn_of_run_ne_trapped h untrapped
  rw [residual_terms length]
  cases taken : takenDisplacement s i with
  | none =>
    obtain ⟨hsl, hpc⟩ := cursor_of_not_taken ran taken
    simp only [Option.getD_none, ite_self]
    omega
  | some ext =>
    have four := lengthOf_of_taken taken
    rcases branched_cases (exec_branched taken h) with ⟨param, hsl, hpc⟩ | ⟨param, hsl, hpc⟩ <;>
      simp only [param, reduceCtorEq, if_true, if_false, Option.getD_some] <;> omega

end Sys2Proof.Machine

namespace Sys2Proof.Machine

/-! PROOF. Instruction-fetch coherence (20_memory.md R54): the fetch at an address in memory as a function of its bytes, and the
bytes that MSWP leaves. -/

/-- The e-bit is in the first byte of a word in memory (30_encoding.md R63). -/
theorem extendedBit_firstWord (m : Memory) (a : Nat) :
    extendedBit (firstWord m a) = decide ((m.readByte a).toNat / 32 % 2 = 1) :=
  extendedBit_halfOfBytes _ _

/-- The fetch at an address where a first word is in memory (40_cycle.md R101, R103). -/
theorem fetch_at {u : State} {p : Nat} (hpc : u.pc = p) (h2 : p + 2 ≤ 1048576) :
    fetch u = if (u.mem.readByte p).toNat / 32 % 2 = 1 then
        if p + 4 ≤ 1048576 then .ok (readBytes u.mem p 4) else .error ((p : Int) + 2)
      else .ok (readBytes u.mem p 2) := by
  have first : inRange u.pc 2 = true := by rw [inRange_iff]; omega
  have second : inRange ((p : Int) + 2) 2 = true ↔ p + 4 ≤ 1048576 := by rw [inRange_iff]; omega
  have word : extendedBit (firstWord u.mem u.pc.toNat) = decide ((u.mem.readByte p).toNat / 32 % 2 = 1) := by
    rw [hpc, Int.toNat_natCast, extendedBit_firstWord]
  by_cases extended : (u.mem.readByte p).toNat / 32 % 2 = 1
  · rw [if_pos extended, fetch_long first (by rw [word, decide_eq_true extended])]
    simp only [hpc, second, Int.toNat_natCast]
  · rw [if_neg extended, fetch_short first (by rw [word, decide_eq_false extended]), hpc, Int.toNat_natCast]

theorem readBytes_two (m : Memory) (a : Nat) : readBytes m a 2 = [m.readByte a, m.readByte (a + 1)] := rfl

theorem readBytes_four (m : Memory) (a : Nat) :
    readBytes m a 4 = [m.readByte a, m.readByte (a + 1), m.readByte (a + 2), m.readByte (a + 3)] := rfl

/-- Byte `k` of a value that is stored low byte first (00_scope.md R14). -/
def storedByte (v k : Nat) : Byte := BitVec.ofNat 8 (v / 256 ^ k)

theorem readByte_stored (m : Memory) (a v : Nat) {k : Nat} (hk : k < 4) :
    (memWrite m a 4 v).readByte (a + k) = storedByte v k := by
  rw [Memory.readByte_memWrite, if_pos (by omega), Nat.add_sub_cancel_left, storedByte]

section Coherence

variable {u : State} {m : Memory} {a v : Nat}

/-- The fetch at a stored word reads it from its first byte. -/
theorem fetch_stored (stored : u.mem = memWrite m a 4 v) (inside : a + 4 ≤ 1048576) (hpc : u.pc = a) :
    fetch u = if (storedByte v 0).toNat / 32 % 2 = 1 then
        .ok [storedByte v 0, storedByte v 1, storedByte v 2, storedByte v 3]
      else .ok [storedByte v 0, storedByte v 1] := by
  have first : u.mem.readByte a = storedByte v 0 := stored ▸ readByte_stored m a v (k := 0) (by decide)
  rw [fetch_at hpc (by omega), if_pos inside, readBytes_four, readBytes_two, first, stored,
    readByte_stored m a v (by decide), readByte_stored m a v (by decide), readByte_stored m a v (by decide)]

/-- The fetch 2 bytes into a stored word reads its last two bytes, and an extension word from what stood after it. -/
theorem fetch_stored_upper (stored : u.mem = memWrite m a 4 v) (inside : a + 4 ≤ 1048576) (hpc : u.pc = (a : Int) + 2) :
    fetch u = if (storedByte v 2).toNat / 32 % 2 = 1 then
        if a + 6 ≤ 1048576 then .ok [storedByte v 2, storedByte v 3, m.readByte (a + 4), m.readByte (a + 5)]
        else .error ((a : Int) + 4)
      else .ok [storedByte v 2, storedByte v 3] := by
  have third : u.mem.readByte (a + 2) = storedByte v 2 := stored ▸ readByte_stored m a v (by decide)
  have fourth : u.mem.readByte (a + 3) = storedByte v 3 := stored ▸ readByte_stored m a v (by decide)
  have after : ∀ x, a + 4 ≤ x → u.mem.readByte x = m.readByte x := fun x hx =>
    stored ▸ readByte_memWrite_outside m v (by omega)
  have address : ((a + 2 : Nat) : Int) + 2 = (a : Int) + 4 := by omega
  rw [fetch_at (p := a + 2) (by omega) (by omega), readBytes_four, readBytes_two, third, fourth,
    after (a + 2 + 2) (by omega), after (a + 2 + 3) (by omega), address]

end Coherence

/-- Settles O36: the state `u` has the memory of the completed MSWP, which holds the old register at the effective address. -/
theorem storedBytesAreFetchedNext : Obligations.StoredBytesAreFetchedNext := by
  intro a b ext r s low high
  obtain ⟨ea, address⟩ := Int.eq_ofNat_of_zero_le low
  refine ⟨_, exec_mswp_of_inside ⟨low, high⟩ a r, fun u mem => ?_⟩
  rw [address] at high mem ⊢
  have stored : u.mem = memWrite s.mem ea 4 (s.reg a).toNat := mem
  have inside : ea + 4 ≤ 1048576 := by omega
  refine ⟨fun hpc => fetch_stored stored inside hpc, fun hpc => ?_⟩
  have fits : ea + 6 ≤ 1048576 ↔ (ea : Int) + 6 ≤ 1048576 := by omega
  rw [fetch_stored_upper stored inside hpc]
  simp only [fits]
  rfl

end Sys2Proof.Machine

namespace Sys2Proof.Machine

/-! PROOF. The host's operations (70_reset_and_hazards.md R221): the refusal of `Load`, and the reset state as a launch. -/

/-- Settles O52: `launch` tests the image's length first. -/
theorem oversizedImageIsRefused : Obligations.OversizedImageIsRefused := fun _ _ oversized =>
  if_neg (Nat.not_le_of_gt oversized)

/-- Settles O58: `Reset` keeps the parameters, and loading nothing leaves memory empty. -/
theorem resetStateIsEmptyLaunch : Obligations.ResetStateIsEmptyLaunch :=
  ⟨fun p _ fits => ⟨_, launch_of_fits p fits, rfl⟩, launch_of_fits Config.defaults (Nat.zero_le _)⟩

end Sys2Proof.Machine
